-- ==== Sys2Proof/Word.lean ====
section
/-! DEFINITION. The word types of the CHIP-8 core (00_scope.md R5, R7): every value is unsigned. -/

namespace Sys2Proof

/-- A byte: a memory cell, a general register, a timer. -/
abbrev Byte := BitVec 8

/-- A 16-bit word: an opcode, `pc`, `I`, a stack entry. -/
abbrev Word := BitVec 16

/-- The 12-bit immediate `nnn`. -/
abbrev Addr12 := BitVec 12

/-- A 4-bit slice of an opcode. -/
abbrev Nibble := BitVec 4

/-- The number of a general register, V0 to VF (10_state.md R11). -/
abbrev Reg := Fin 16

/-- VF, the register that doubles as the flag (10_state.md R12). -/
abbrev VF : Reg := 15

end Sys2Proof
end

