-- ==== Sys2Proof/Syntax.lean ====
section
/-! DEFINITION. The 35 instructions of 30_encoding.md R65, one constructor per row, in the order of the table. -/

namespace Sys2Proof

/-- An instruction with the operands its format names (30_encoding.md R62, R63). SHR and SHL keep the field y that
they ignore, so that a word can be had back from its instruction. -/
inductive Instr where
  | nop
  | cls
  | ret
  | jp (nnn : Addr12)
  | call (nnn : Addr12)
  | seI (x : Reg) (nn : Byte)
  | sneI (x : Reg) (nn : Byte)
  | seR (x y : Reg)
  | ldI (x : Reg) (nn : Byte)
  | addI (x : Reg) (nn : Byte)
  | ldR (x y : Reg)
  | or (x y : Reg)
  | and (x y : Reg)
  | xor (x y : Reg)
  | addR (x y : Reg)
  | sub (x y : Reg)
  | shr (x y : Reg)
  | subn (x y : Reg)
  | shl (x y : Reg)
  | sneR (x y : Reg)
  | ldIdx (nnn : Addr12)
  | jpV0 (nnn : Addr12)
  | rnd (x : Reg) (nn : Byte)
  /-- `z` is a count of rows; `Instr.WellFormed` bounds it by the field's four bits. -/
  | drw (x y : Reg) (z : Nat)
  | skp (x : Reg)
  | sknp (x : Reg)
  | ldVxDt (x : Reg)
  | ldVxK (x : Reg)
  | ldDtVx (x : Reg)
  | ldStVx (x : Reg)
  | addIdx (x : Reg)
  | ldF (x : Reg)
  | ldB (x : Reg)
  | stRegs (x : Reg)
  | ldRegs (x : Reg)
  deriving DecidableEq, Repr

end Sys2Proof
end

