-- ==== Sys2Proof/WellFormed.lean ====
section
/-! DEFINITION. Which terms of `Instr` are instructions of the machine. The types of the operands bound every field
but the row count of DRW (30_encoding.md R63: z is a 4-bit count, 0 to 15). -/

namespace Sys2Proof

/-- The check, as a Bool. -/
def Instr.wellFormed : Instr → Bool
  | .drw _ _ z => decide (z < 16)
  | .nop | .cls | .ret | .jp _ | .call _ | .seI _ _ | .sneI _ _ | .seR _ _ | .ldI _ _ | .addI _ _ | .ldR _ _
  | .or _ _ | .and _ _ | .xor _ _ | .addR _ _ | .sub _ _ | .shr _ _ | .subn _ _ | .shl _ _ | .sneR _ _ | .ldIdx _
  | .jpV0 _ | .rnd _ _ | .skp _ | .sknp _ | .ldVxDt _ | .ldVxK _ | .ldDtVx _ | .ldStVx _ | .addIdx _ | .ldF _
  | .ldB _ | .stRegs _ | .ldRegs _ => true

/-- `i` is an instruction of the machine. -/
abbrev Instr.WellFormed (i : Instr) : Prop := i.wellFormed = true

end Sys2Proof
end

