-- ==== Sys2Proof/Decode.lean ====
section
/-! DEFINITION. From bytes to instructions and back (30_encoding.md R60 to R66, R70; 20_memory.md R41). -/

namespace Sys2Proof

/-- Why bytes are no instruction. `truncated`: fewer than the two bytes of an opcode. `illegalOpcode`: a word that
matches no row (30_encoding.md R70). -/
inductive DecodeError where
  | truncated (have_ : Nat)
  | illegalOpcode (w : Word)
  deriving DecidableEq, Repr

/-- A row of the table of 30_encoding.md R65: a word `w` selects it iff `w &&& mask = code`. -/
structure OpcodeRow where
  mnemonic : String
  code : Word
  mask : Word
  deriving DecidableEq, Repr

/-- The complete instruction list, 30_encoding.md R65. -/
def opcodeTable : List OpcodeRow :=
  [⟨"NOP", 0x0000, 0xFFFF⟩,
   ⟨"CLS", 0x00E0, 0xFFFF⟩,
   ⟨"RET", 0x00EE, 0xFFFF⟩,
   ⟨"JP", 0x1000, 0xF000⟩,
   ⟨"CALL", 0x2000, 0xF000⟩,
   ⟨"SE_I", 0x3000, 0xF000⟩,
   ⟨"SNE_I", 0x4000, 0xF000⟩,
   ⟨"SE_R", 0x5000, 0xF00F⟩,
   ⟨"LD_I", 0x6000, 0xF000⟩] ++
  [⟨"ADD_I", 0x7000, 0xF000⟩,
   ⟨"LD_R", 0x8000, 0xF00F⟩,
   ⟨"OR", 0x8001, 0xF00F⟩,
   ⟨"AND", 0x8002, 0xF00F⟩,
   ⟨"XOR", 0x8003, 0xF00F⟩,
   ⟨"ADD_R", 0x8004, 0xF00F⟩,
   ⟨"SUB", 0x8005, 0xF00F⟩,
   ⟨"SHR", 0x8006, 0xF00F⟩,
   ⟨"SUBN", 0x8007, 0xF00F⟩] ++
  [⟨"SHL", 0x800E, 0xF00F⟩,
   ⟨"SNE_R", 0x9000, 0xF00F⟩,
   ⟨"LD_IDX", 0xA000, 0xF000⟩,
   ⟨"JP_V0", 0xB000, 0xF000⟩,
   ⟨"RND", 0xC000, 0xF000⟩,
   ⟨"DRW", 0xD000, 0xF000⟩,
   ⟨"SKP", 0xE09E, 0xF0FF⟩,
   ⟨"SKNP", 0xE0A1, 0xF0FF⟩,
   ⟨"LD_VX_DT", 0xF007, 0xF0FF⟩] ++
  [⟨"LD_VX_K", 0xF00A, 0xF0FF⟩,
   ⟨"LD_DT_VX", 0xF015, 0xF0FF⟩,
   ⟨"LD_ST_VX", 0xF018, 0xF0FF⟩,
   ⟨"ADD_IDX", 0xF01E, 0xF0FF⟩,
   ⟨"LD_F", 0xF029, 0xF0FF⟩,
   ⟨"LD_B", 0xF033, 0xF0FF⟩,
   ⟨"ST_REGS", 0xF055, 0xF0FF⟩,
   ⟨"LD_REGS", 0xF065, 0xF0FF⟩]

/-- `w` selects the row `r` (30_encoding.md R65). -/
def OpcodeRow.selects (r : OpcodeRow) (w : Word) : Bool := w &&& r.mask == r.code

/-- The label of an instruction's row (30_encoding.md R65, R73). -/
def Instr.mnemonic : Instr → String
  | .nop => "NOP"
  | .cls => "CLS"
  | .ret => "RET"
  | .jp _ => "JP"
  | .call _ => "CALL"
  | .seI _ _ => "SE_I"
  | .sneI _ _ => "SNE_I"
  | .seR _ _ => "SE_R"
  | .ldI _ _ => "LD_I"
  | .addI _ _ => "ADD_I"
  | .ldR _ _ => "LD_R"
  | .or _ _ => "OR"
  | .and _ _ => "AND"
  | .xor _ _ => "XOR"
  | .addR _ _ => "ADD_R"
  | .sub _ _ => "SUB"
  | .shr _ _ => "SHR"
  | .subn _ _ => "SUBN"
  | .shl _ _ => "SHL"
  | .sneR _ _ => "SNE_R"
  | .ldIdx _ => "LD_IDX"
  | .jpV0 _ => "JP_V0"
  | .rnd _ _ => "RND"
  | .drw _ _ _ => "DRW"
  | .skp _ => "SKP"
  | .sknp _ => "SKNP"
  | .ldVxDt _ => "LD_VX_DT"
  | .ldVxK _ => "LD_VX_K"
  | .ldDtVx _ => "LD_DT_VX"
  | .ldStVx _ => "LD_ST_VX"
  | .addIdx _ => "ADD_IDX"
  | .ldF _ => "LD_F"
  | .ldB _ => "LD_B"
  | .stRegs _ => "ST_REGS"
  | .ldRegs _ => "LD_REGS"

/-! The fields of an opcode, 30_encoding.md R61. -/

def nibble1 (w : Word) : Nibble := w.extractLsb' 12 4

def nibble4 (w : Word) : Nibble := w.extractLsb' 0 4

def fieldX (w : Word) : Reg := (w.extractLsb' 8 4).toFin

def fieldY (w : Word) : Reg := (w.extractLsb' 4 4).toFin

def fieldZ (w : Word) : Nat := (nibble4 w).toNat

def fieldNN (w : Word) : Byte := w.extractLsb' 0 8

def fieldNNN (w : Word) : Addr12 := w.extractLsb' 0 12

/-- The group n1 = 0: whole words only (30_encoding.md R64). -/
def decodeSystem (w : Word) : Except DecodeError Instr :=
  if w = 0x0000 then .ok .nop
  else if w = 0x00E0 then .ok .cls
  else if w = 0x00EE then .ok .ret
  else .error (.illegalOpcode w)

/-- The group n1 = 8, selected by n4. -/
def decodeAlu (w : Word) : Except DecodeError Instr :=
  match (nibble4 w).toNat with
  | 0x0 => .ok (.ldR (fieldX w) (fieldY w))
  | 0x1 => .ok (.or (fieldX w) (fieldY w))
  | 0x2 => .ok (.and (fieldX w) (fieldY w))
  | 0x3 => .ok (.xor (fieldX w) (fieldY w))
  | 0x4 => .ok (.addR (fieldX w) (fieldY w))
  | 0x5 => .ok (.sub (fieldX w) (fieldY w))
  | 0x6 => .ok (.shr (fieldX w) (fieldY w))
  | 0x7 => .ok (.subn (fieldX w) (fieldY w))
  | 0xE => .ok (.shl (fieldX w) (fieldY w))
  | _ => .error (.illegalOpcode w)

/-- The groups n1 = 5 and n1 = 9: legal only with n4 = 0. -/
def decodeIfN4Zero (w : Word) (i : Instr) : Except DecodeError Instr :=
  if nibble4 w = 0 then .ok i else .error (.illegalOpcode w)

/-- The group n1 = E, selected by nn. -/
def decodeKey (w : Word) : Except DecodeError Instr :=
  match (fieldNN w).toNat with
  | 0x9E => .ok (.skp (fieldX w))
  | 0xA1 => .ok (.sknp (fieldX w))
  | _ => .error (.illegalOpcode w)

/-- The group n1 = F, selected by nn. -/
def decodeMisc (w : Word) : Except DecodeError Instr :=
  match (fieldNN w).toNat with
  | 0x07 => .ok (.ldVxDt (fieldX w))
  | 0x0A => .ok (.ldVxK (fieldX w))
  | 0x15 => .ok (.ldDtVx (fieldX w))
  | 0x18 => .ok (.ldStVx (fieldX w))
  | 0x1E => .ok (.addIdx (fieldX w))
  | 0x29 => .ok (.ldF (fieldX w))
  | 0x33 => .ok (.ldB (fieldX w))
  | 0x55 => .ok (.stRegs (fieldX w))
  | 0x65 => .ok (.ldRegs (fieldX w))
  | _ => .error (.illegalOpcode w)

/-- The opcode map of 30_encoding.md R64. -/
def decodeWord (w : Word) : Except DecodeError Instr :=
  match (nibble1 w).toNat with
  | 0x0 => decodeSystem w
  | 0x1 => .ok (.jp (fieldNNN w))
  | 0x2 => .ok (.call (fieldNNN w))
  | 0x3 => .ok (.seI (fieldX w) (fieldNN w))
  | 0x4 => .ok (.sneI (fieldX w) (fieldNN w))
  | 0x5 => decodeIfN4Zero w (.seR (fieldX w) (fieldY w))
  | 0x6 => .ok (.ldI (fieldX w) (fieldNN w))
  | 0x7 => .ok (.addI (fieldX w) (fieldNN w))
  | 0x8 => decodeAlu w
  | 0x9 => decodeIfN4Zero w (.sneR (fieldX w) (fieldY w))
  | 0xA => .ok (.ldIdx (fieldNNN w))
  | 0xB => .ok (.jpV0 (fieldNNN w))
  | 0xC => .ok (.rnd (fieldX w) (fieldNN w))
  | 0xD => .ok (.drw (fieldX w) (fieldY w) (fieldZ w))
  | 0xE => decodeKey w
  | _ => decodeMisc w

/-- The opcode of two consecutive bytes, big-endian (20_memory.md R41). -/
def bytesToWord (hi lo : Byte) : Word := hi ++ lo

/-- Decode the first instruction of a byte sequence; answers it with the bytes that follow it. Every instruction is
two bytes long (30_encoding.md R62). -/
def decode : List Byte → Except DecodeError (Instr × List Byte)
  | hi :: lo :: rest =>
    match decodeWord (bytesToWord hi lo) with
    | .ok i => .ok (i, rest)
    | .error e => .error e
  | [_] => .error (.truncated 1)
  | [] => .error (.truncated 0)

/-! The encoder, from the formats of 30_encoding.md R62 and the matches of R65. -/

/-- The four bits of a register field. -/
def regBits (x : Reg) : Nibble := BitVec.ofNat 4 x.val

/-- Format A. -/
def formA (op : Nibble) (nnn : Addr12) : Word := op ++ nnn

/-- Formats XB and XS. -/
def formXB (op : Nibble) (x : Reg) (nn : Byte) : Word := op ++ regBits x ++ nn

/-- Formats XY and XYZ. -/
def formXY (op : Nibble) (x y : Reg) (n4 : Nibble) : Word := op ++ regBits x ++ regBits y ++ n4

/-- The word of a well-formed instruction. -/
def encode : Instr → Word
  | .nop => 0x0000
  | .cls => 0x00E0
  | .ret => 0x00EE
  | .jp nnn => formA 0x1 nnn
  | .call nnn => formA 0x2 nnn
  | .seI x nn => formXB 0x3 x nn
  | .sneI x nn => formXB 0x4 x nn
  | .seR x y => formXY 0x5 x y 0x0
  | .ldI x nn => formXB 0x6 x nn
  | .addI x nn => formXB 0x7 x nn
  | .ldR x y => formXY 0x8 x y 0x0
  | .or x y => formXY 0x8 x y 0x1
  | .and x y => formXY 0x8 x y 0x2
  | .xor x y => formXY 0x8 x y 0x3
  | .addR x y => formXY 0x8 x y 0x4
  | .sub x y => formXY 0x8 x y 0x5
  | .shr x y => formXY 0x8 x y 0x6
  | .subn x y => formXY 0x8 x y 0x7
  | .shl x y => formXY 0x8 x y 0xE
  | .sneR x y => formXY 0x9 x y 0x0
  | .ldIdx nnn => formA 0xA nnn
  | .jpV0 nnn => formA 0xB nnn
  | .rnd x nn => formXB 0xC x nn
  | .drw x y z => formXY 0xD x y (BitVec.ofNat 4 z)
  | .skp x => formXB 0xE x 0x9E
  | .sknp x => formXB 0xE x 0xA1
  | .ldVxDt x => formXB 0xF x 0x07
  | .ldVxK x => formXB 0xF x 0x0A
  | .ldDtVx x => formXB 0xF x 0x15
  | .ldStVx x => formXB 0xF x 0x18
  | .addIdx x => formXB 0xF x 0x1E
  | .ldF x => formXB 0xF x 0x29
  | .ldB x => formXB 0xF x 0x33
  | .stRegs x => formXB 0xF x 0x55
  | .ldRegs x => formXB 0xF x 0x65

/-- The high byte of a word, which memory holds at the lower address (20_memory.md R41). -/
def highByte (w : Word) : Byte := w.extractLsb' 8 8

/-- The low byte of a word. -/
def lowByte (w : Word) : Byte := w.extractLsb' 0 8

/-- The bytes of an instruction, in the order memory holds them. -/
def encodeBytes (i : Instr) : List Byte := [highByte (encode i), lowByte (encode i)]

/-- The word of an instruction whose bits are `w`, bit 0 the least significant bit of its one word; bits from `nbits`
up are 0. -/
def tableWord (nbits w : Nat) : Word := BitVec.ofNat 16 (w % 2 ^ nbits)

/-- The instruction this decoder reads from the word `w` of an opcode-table row. -/
def decodeTableWord (nbits w : Nat) : Option Instr :=
  match decode [highByte (tableWord nbits w), lowByte (tableWord nbits w)] with
  | .ok (i, _) => some i
  | .error _ => none

end Sys2Proof
end

