-- ==== Sys2Proof/Config.lean ====
section
/-! DEFINITION. What the spec fixes as constants (00_scope.md R5), what it leaves to configuration (R6), and the
free values. -/

namespace Sys2Proof

/-- MEM_SIZE, the number of bytes of memory. -/
abbrev Config.memSize : Nat := 4096

/-- PROG_BASE, the load address of a program and the reset value of `pc`. -/
abbrev Config.progBase : Nat := 0x200

/-- MAX_PROG_LEN. -/
abbrev Config.maxProgLen : Nat := 3584

/-- FONT_LEN. -/
abbrev Config.fontLen : Nat := 80

/-- The configuration constant FONT (10_state.md R20), `font[5 * d + r]` being row `r` of glyph `d`.
PRESUMED, unsafe: the spec fixes only the shape; these bytes are its default, marked there as general knowledge.
No statement of this package rests on them (notes/assumptions/1.md). -/
def Config.font : List Byte :=
  [0xF0, 0x90, 0x90, 0x90, 0xF0, 0x20, 0x60, 0x20, 0x20, 0x70,
   0xF0, 0x10, 0xF0, 0x80, 0xF0, 0xF0, 0x10, 0xF0, 0x10, 0xF0] ++
  [0x90, 0x90, 0xF0, 0x10, 0x10, 0xF0, 0x80, 0xF0, 0x10, 0xF0,
   0xF0, 0x80, 0xF0, 0x90, 0xF0, 0xF0, 0x10, 0x20, 0x40, 0x40] ++
  [0xF0, 0x90, 0xF0, 0x90, 0xF0, 0xF0, 0x90, 0xF0, 0x10, 0xF0,
   0xF0, 0x90, 0xF0, 0x90, 0x90, 0xE0, 0x90, 0xE0, 0x90, 0xE0] ++
  [0xF0, 0x80, 0x80, 0x80, 0xF0, 0xE0, 0x90, 0x90, 0x90, 0xE0,
   0xF0, 0x80, 0xF0, 0x80, 0xF0, 0xF0, 0x80, 0xF0, 0x80, 0x80]

/-- The two settings of the parameter SHIFT_VF_ALIAS (00_scope.md R6, 41_alu.md R121): which of its two writes a
shift with x = F makes last. -/
inductive ShiftVfAlias where
  | flagLast
  | resultLast
  deriving DecidableEq, Repr

/-- SHIFT_VF_ALIAS. DESIGN CHOICE, unsafe: the spec's default (R6; 90_conflicts.md C6). The statements about SHR and
SHL hold for either setting (notes/assumptions/2.md). -/
def Config.shiftVfAlias : ShiftVfAlias := .flagLast

/-- Free value: the byte RND draws when the host has injected none (41_alu.md R134: each value is possible at every
RND). It has no body, so nothing can be proved of it (notes/assumptions/3.md). -/
opaque Config.draw : Nat → Byte

end Sys2Proof
end

