-- ==== Sys2Proof/Machine/State.lean ====
section
/-! DEFINITION. The state of the core (10_state.md R10 to R25) as plain data, the outcomes a step can have, and the
state after reset. -/

namespace Sys2Proof.Machine

/-- How a step can end outside the state. There is no constructor: every fault of the spec (60_exceptions.md R241) is
LATCHED in `State.fault` and the machine goes on to a next state (R243), so no step stops this way
(notes/assumptions/4.md). -/
inductive Fault
  deriving DecidableEq, Repr

/-- What the model gives no meaning. -/
inductive Refusal where
  /-- Raised by an arm of `exec` whose instruction has no meaning yet. Safe. No arm raises it: all 35 instructions have
  their meaning. -/
  | notModelled (mnemonic : String)
  deriving DecidableEq, Repr

/-- The causes of 60_exceptions.md R241. -/
inductive FaultCause where
  /-- NONE: no fault is latched. -/
  | noFault
  /-- Raised by the fetch, DRW, LD_B, ST_REGS, LD_REGS. -/
  | memOutOfBounds
  /-- Raised by CALL. -/
  | stackOverflow
  /-- Raised by RET. -/
  | stackUnderflow
  /-- Raised by the dispatch. -/
  | illegalOpcode
  /-- Raised by SKP, SKNP. -/
  | keyIndexOutOfRange
  deriving DecidableEq, Repr

/-- The fault latch (10_state.md R21). -/
structure FaultRecord where
  cause : FaultCause
  opcode : Word
  pc : Word
  deriving DecidableEq, Repr

/-- The record while no fault is latched. -/
def FaultRecord.clear : FaultRecord := { cause := .noFault, opcode := 0, pc := 0 }

/-- Memory as (address, byte) pairs: addresses strictly rising, no entry equal to what an unlisted address reads as
(`Memory.wf` in Machine/Ops.lean). -/
abbrev Memory := List Host.Cell

/-- The framebuffer, 32 rows of 64 one-bit cells, row 0 first: the cell at column px and row py is bit px of row py, 1
for on; it is the spec's cell number `py * 64 + px` (10_state.md R18; notes/assumptions/9.md). -/
abbrev FrameBuffer := Vector (BitVec 64) 32

/-- The state aggregate, 10_state.md R10. `sp` is the number of stack entries in use, 0 to 16 (R15). The last two
fields are the model's own: they stand for the input `rnd` of `step` (41_alu.md R134; notes/assumptions/3.md). -/
structure State where
  mem : Memory
  V : Vector Byte 16
  I : Word
  pc : Word
  stack : Vector Word 16
  sp : Fin 17
  keys : Vector Bool 16
  fb : FrameBuffer
  DT : Byte
  ST : Byte
  fault : FaultRecord
  /-- Draws the host has injected for the coming RND instructions, the next one first. -/
  draws : List Byte
  /-- Index of the free value that RND draws when none is injected. -/
  drawIdx : Nat
  deriving DecidableEq, Repr

/-- The state after `reset` and at power-on, 10_state.md R25. Memory lists nothing: unlisted addresses read as the
reset contents. -/
def State.reset : State where
  mem := []
  V := Vector.replicate 16 0
  I := 0
  pc := 0x200
  stack := Vector.replicate 16 0
  sp := 0
  keys := Vector.replicate 16 false
  fb := Vector.replicate 32 0
  DT := 0
  ST := 0
  fault := .clear
  draws := []
  drawIdx := 0

end Sys2Proof.Machine
end

