-- ==== Sys2Proof/Machine/Ops.lean ====
section
/-! DEFINITION. The named operations over memory and registers, the fetch, and taking a fault. -/

namespace Sys2Proof.Machine

/-! ## Memory (20_memory.md R40 to R44) -/

/-- What an address that memory does not list reads as: the reset contents, FONT at 0x000 to 0x04F and 0x00 elsewhere
(10_state.md R25). -/
def Memory.unlisted (a : Nat) : Byte := if a < Config.fontLen then Config.font.getD a 0 else 0

/-- The byte at an address. -/
def Memory.get : Memory → Nat → Byte
  | [], a => Memory.unlisted a
  | c :: m, a => if c.1 = a then c.2 else Memory.get m a

/-- Memory without an entry for an address. -/
def Memory.erase (m : Memory) (a : Nat) : Memory := m.filter fun c => c.1 != a

/-- Memory with an entry put before the first higher address. -/
def Memory.insert : Memory → Nat → Byte → Memory
  | [], a, b => [(a, b)]
  | c :: m, a, b => if a < c.1 then (a, b) :: c :: m else c :: Memory.insert m a b

/-- Store one byte, keeping the canonical form. -/
def Memory.put (m : Memory) (a : Nat) (b : Byte) : Memory :=
  if b = Memory.unlisted a then Memory.erase m a else Memory.insert (Memory.erase m a) a b

/-- Store bytes at rising addresses from `a` (20_memory.md R41). -/
def Memory.putAll : Memory → Nat → List Byte → Memory
  | m, _, [] => m
  | m, a, b :: bs => Memory.putAll (Memory.put m a b) (a + 1) bs

/-- The canonical form: addresses exist and rise strictly, no entry equals what the address would read as unlisted. -/
def Memory.wf : Memory → Bool
  | [] => true
  | c :: m =>
    decide (c.1 < Config.memSize) && c.2 != Memory.unlisted c.1 && (m.all fun d => decide (c.1 < d.1)) && Memory.wf m

/-- The bounds check of 20_memory.md R44: `n` bytes from `base` all exist. Addresses are unbounded naturals; no byte is
always in bounds. -/
def spanInMem (base n : Nat) : Bool := n == 0 || decide (base + n ≤ Config.memSize)

/-! ## Registers -/

/-- Read `V[x]`. -/
def State.reg (s : State) (x : Reg) : Byte := s.V[x]

/-- Write `V[x]`. -/
def State.setReg (s : State) (x : Reg) (b : Byte) : State := { s with V := s.V.set x b }

/-- Write the program counter. -/
def State.setPc (s : State) (w : Word) : State := { s with pc := w }

/-- The advance that precedes execution (30_encoding.md R60). -/
def State.advance (s : State) : State := s.setPc (s.pc + 2)

/-- A skip: 2 more on the already advanced `pc` when the condition holds (40_control_flow.md R109). -/
def State.skipIf (s : State) (taken : Bool) : State := if taken then s.setPc (s.pc + 2) else s

/-- Write the index register. -/
def State.setI (s : State) (w : Word) : State := { s with I := w }

/-- Replace memory. -/
def State.setMem (s : State) (m : Memory) : State := { s with mem := m }

/-- Replace the framebuffer. -/
def State.setFb (s : State) (f : FrameBuffer) : State := { s with fb := f }

/-- Write the delay timer. -/
def State.setDT (s : State) (b : Byte) : State := { s with DT := b }

/-- Write the sound timer. -/
def State.setST (s : State) (b : Byte) : State := { s with ST := b }

/-- Set a key flag. -/
def State.setKeyFlag (s : State) (k : Fin 16) (pressed : Bool) : State := { s with keys := s.keys.set k pressed }

/-- Write registers 0, 1, .. n-1 in turn, each from a function of its number (43_index_memory.md R178). -/
def writeRegsBelow (v : Vector Byte 16) (f : Nat → Byte) : Nat → Vector Byte 16
  | 0 => v
  | n + 1 => (writeRegsBelow v f n).setIfInBounds n (f n)

/-- Write `V[0] .. V[n-1]`. -/
def State.setRegsBelow (s : State) (n : Nat) (f : Nat → Byte) : State := { s with V := writeRegsBelow s.V f n }

/-- The framebuffer with every cell off. -/
def FrameBuffer.blank : FrameBuffer := Vector.replicate 32 0

/-- The cell of number `i = py * 64 + px` (10_state.md R18). -/
def FrameBuffer.cell (f : FrameBuffer) (i : Fin 2048) : Bool := f[i.val / 64].getLsbD (i.val % 64)

/-- The framebuffer with cell `i` toggled. -/
def FrameBuffer.toggle (f : FrameBuffer) (i : Fin 2048) : FrameBuffer :=
  f.set (i.val / 64) (f[i.val / 64] ^^^ BitVec.twoPow 64 (i.val % 64))

/-! ## The call stack (10_state.md R15) -/

/-- Push: write `stack[sp]`, then increment `sp`. Used with `sp < 16` only. -/
def State.push (s : State) (w : Word) : State :=
  { s with stack := s.stack.setIfInBounds s.sp.val w, sp := s.sp + 1 }

/-- The entry a pop reads: `stack[sp - 1]`. Used with `sp > 0` only. -/
def State.top (s : State) : Word := s.stack[s.sp.val - 1]

/-- Pop: decrement `sp`; the slot keeps its value. -/
def State.pop (s : State) : State := { s with sp := s.sp - 1 }

/-! ## The random draw (41_alu.md R134) -/

/-- The byte the next RND draws: the one the host injected, else a free value. -/
def State.draw (s : State) : Byte := s.draws.headD (Config.draw s.drawIdx)

/-- The draw is used up. -/
def State.useDraw (s : State) : State := { s with draws := s.draws.tail, drawIdx := s.drawIdx + 1 }

/-- Replace the injected draws. -/
def State.setDraws (s : State) (ds : List Byte) : State := { s with draws := ds }

/-! ## Faults (60_exceptions.md R240 to R245) -/

/-- Fault entry, R243, on the state BEFORE the step: nothing of the step is kept, and the record holds the cause, the
opcode and the address of the instruction. -/
def State.latch (s : State) (c : FaultCause) (op : Word) : State :=
  { s with fault := { cause := c, opcode := op, pc := s.pc } }

/-- Taking a fault is the step's next state. There is no return from it (R244): only the `reset` event leaves it. -/
def takeFault (c : FaultCause) (op : Word) (s : State) : Host.Outcome State Fault Refusal := .next (s.latch c op)

/-- No fault is latched. -/
def State.running (s : State) : Bool := s.fault.cause == .noFault

/-! ## Fetch (30_encoding.md R60) -/

/-- The opcode at an address, when both its bytes exist (20_memory.md R41, R42, R44). -/
def Memory.fetchWord (m : Memory) (a : Nat) : Option Word :=
  if a + 1 < Config.memSize then some (bytesToWord (m.get a) (m.get (a + 1))) else none

/-- What a step finds before it executes. -/
inductive Fetched where
  /-- A fault is latched: the step does nothing (60_exceptions.md R245). -/
  | quiescent
  /-- The fetch or the dispatch faults. -/
  | faults (c : FaultCause) (op : Word)
  /-- An instruction to execute. -/
  | instr (i : Instr)
  deriving DecidableEq, Repr

/-- Fetch and decode, in the order of 30_encoding.md R60. A fetch fault records opcode 0x0000. -/
def State.fetch (s : State) : Fetched :=
  if s.running then
    match s.mem.fetchWord s.pc.toNat with
    | none => .faults .memOutOfBounds 0x0000
    | some w =>
      match decodeWord w with
      | .ok i => .instr i
      | .error _ => .faults .illegalOpcode w
  else .quiescent

/-- Memory with a word stored at an address, high byte first; a byte whose address does not exist is not stored. -/
def Memory.putWord (m : Memory) (a : Nat) (w : Word) : Memory :=
  if a + 1 < Config.memSize then m.putAll a [highByte w, lowByte w] else m

end Sys2Proof.Machine
end

