-- ==== Sys2Proof/Machine/Flags.lean ====
section
/-! DEFINITION. Every flag computation of the spec. VF is the only flag and is written as a full byte, 0 or 1
(10_state.md R12; 41_alu.md R120, R121). -/

namespace Sys2Proof.Machine

/-- The flag byte of a condition. -/
def flagByte (c : Bool) : Byte := if c then 1 else 0

/-- Carry of an addition: the true sum exceeds 255. -/
def carryFlag (a b : Byte) : Byte := flagByte (decide (a.toNat + b.toNat > 255))

/-- Complement of the borrow of `a - b`: 0 iff `a < b`. -/
def notBorrowFlag (a b : Byte) : Byte := flagByte (decide (¬ a.toNat < b.toNat))

/-- The bit a right shift moves out. -/
def lowBitFlag (a : Byte) : Byte := a &&& 1

/-- The bit a left shift moves out. -/
def highBitFlag (a : Byte) : Byte := a >>> 7

/-- Write a result to `V[x]`, then the flag to VF: with x = F the flag stays and the result is lost (41_alu.md R121). -/
def State.setResultThenFlag (s : State) (x : Reg) (result flag : Byte) : State := (s.setReg x result).setReg VF flag

/-- The two writes of a shift under a setting of SHIFT_VF_ALIAS (41_alu.md R121). `result_last` runs the table's two
statements as written, the second reading the register the first just wrote. -/
def State.setShift (s : State) (order : ShiftVfAlias) (x : Reg) (shift : Byte → Byte) (flag : Byte) : State :=
  match order with
  | .flagLast => s.setResultThenFlag x (shift (s.reg x)) flag
  | .resultLast => (s.setReg VF flag).setReg x (shift ((s.setReg VF flag).reg x))

end Sys2Proof.Machine
end

