-- ==== Sys2Proof/Machine/Operands.lean ====
section
/-! DEFINITION. Operand forms: how an instruction's effective addresses and operand values come from its fields and
the state (30_encoding.md R63; 20_memory.md R52). -/

namespace Sys2Proof.Machine

/-- `zext_16(nnn)`. -/
def addrWord (nnn : Addr12) : Word := nnn.setWidth 16

/-- `zext_16` of a byte. -/
def byteWord (b : Byte) : Word := b.setWidth 16

/-- The address of the first byte that DRW, LD_B, ST_REGS and LD_REGS touch: `I`, a natural number. -/
def State.base (s : State) : Nat := s.I.toNat

/-- The registers `V[0] .. V[x]` in order, what ST_REGS stores (43_index_memory.md R177). -/
def State.regsUpTo (s : State) (x : Reg) : List Byte := s.V.toList.take (x.val + 1)

/-- The three decimal digits of a byte, hundreds first (43_index_memory.md R176). -/
def bcdDigits (v : Byte) : List Byte :=
  [BitVec.ofNat 8 (v.toNat / 100), BitVec.ofNat 8 (v.toNat / 10 % 10), BitVec.ofNat 8 (v.toNat % 10)]

/-- The lowest-numbered pressed key (44_keys_timers.md R192). -/
def State.lowestKey (s : State) : Option Nat := s.keys.toList.findIdx? fun pressed => pressed

end Sys2Proof.Machine
end

