-- ==== Sys2Proof/Machine/Alu.lean ====
section
/-! DEFINITION. Register load, arithmetic, logic, shift and random instructions, 41_alu.md. Operands are read before
any register is written (R121); sums and differences wrap at 8 bits (R120). -/

namespace Sys2Proof.Machine

/-- LD Vx, nn, R122. -/
def execLdI (x : Reg) (nn : Byte) (s : State) : Host.Outcome State Fault Refusal := .next (s.advance.setReg x nn)

/-- ADD Vx, nn, R123: no flag. -/
def execAddI (x : Reg) (nn : Byte) (s : State) : Host.Outcome State Fault Refusal :=
  .next (s.advance.setReg x (s.reg x + nn))

/-- LD Vx, Vy, R124. -/
def execLdR (x y : Reg) (s : State) : Host.Outcome State Fault Refusal := .next (s.advance.setReg x (s.reg y))

/-- OR Vx, Vy, R125: no flag. -/
def execOr (x y : Reg) (s : State) : Host.Outcome State Fault Refusal :=
  .next (s.advance.setReg x (s.reg x ||| s.reg y))

/-- AND Vx, Vy, R126: no flag. -/
def execAnd (x y : Reg) (s : State) : Host.Outcome State Fault Refusal :=
  .next (s.advance.setReg x (s.reg x &&& s.reg y))

/-- XOR Vx, Vy, R127: no flag. -/
def execXor (x y : Reg) (s : State) : Host.Outcome State Fault Refusal :=
  .next (s.advance.setReg x (s.reg x ^^^ s.reg y))

/-- ADD Vx, Vy, R128: VF is the carry. -/
def execAddR (x y : Reg) (s : State) : Host.Outcome State Fault Refusal :=
  .next (s.advance.setResultThenFlag x (s.reg x + s.reg y) (carryFlag (s.reg x) (s.reg y)))

/-- SUB Vx, Vy, R129: VF is the complement of the borrow. -/
def execSub (x y : Reg) (s : State) : Host.Outcome State Fault Refusal :=
  .next (s.advance.setResultThenFlag x (s.reg x - s.reg y) (notBorrowFlag (s.reg x) (s.reg y)))

/-- SUBN Vx, Vy, R131: Vy - Vx. -/
def execSubn (x y : Reg) (s : State) : Host.Outcome State Fault Refusal :=
  .next (s.advance.setResultThenFlag x (s.reg y - s.reg x) (notBorrowFlag (s.reg y) (s.reg x)))

/-- SHR Vx, R130: Vy is ignored. -/
def execShr (x _y : Reg) (s : State) : Host.Outcome State Fault Refusal :=
  .next (s.advance.setShift Config.shiftVfAlias x (fun b => b >>> 1) (lowBitFlag (s.reg x)))

/-- SHL Vx, R132: Vy is ignored. -/
def execShl (x _y : Reg) (s : State) : Host.Outcome State Fault Refusal :=
  .next (s.advance.setShift Config.shiftVfAlias x (fun b => b <<< 1) (highBitFlag (s.reg x)))

/-- RND Vx, nn, R133: the draw of this step, masked. -/
def execRnd (x : Reg) (nn : Byte) (s : State) : Host.Outcome State Fault Refusal :=
  .next (s.advance.useDraw.setReg x (s.draw &&& nn))

end Sys2Proof.Machine
end

