-- ==== Sys2Proof/Machine/Control.lean ====
section
/-! DEFINITION. Control-flow instructions, 40_control_flow.md. A meaning starts from the state before the step, `pc` at
the instruction's own address `a`, and begins with the advance to `a + 2` (30_encoding.md R60). -/

namespace Sys2Proof.Machine

/-- NOP, R100. -/
def execNop (s : State) : Host.Outcome State Fault Refusal := .next s.advance

/-- RET, R101. -/
def execRet (s : State) : Host.Outcome State Fault Refusal :=
  if s.sp.val = 0 then takeFault .stackUnderflow (encode .ret) s
  else .next (s.advance.pop.setPc s.top)

/-- JP nnn, R102. -/
def execJp (nnn : Addr12) (s : State) : Host.Outcome State Fault Refusal := .next (s.advance.setPc (addrWord nnn))

/-- CALL nnn, R103: the address pushed is the advanced `pc`. -/
def execCall (nnn : Addr12) (s : State) : Host.Outcome State Fault Refusal :=
  if s.sp.val = 16 then takeFault .stackOverflow (encode (.call nnn)) s
  else .next ((s.advance.push s.advance.pc).setPc (addrWord nnn))

/-- JP V0, nnn, R104: the sum is not reduced modulo 4096. -/
def execJpV0 (nnn : Addr12) (s : State) : Host.Outcome State Fault Refusal :=
  .next (s.advance.setPc (byteWord (s.reg 0) + addrWord nnn))

/-- SE Vx, nn, R105. -/
def execSeI (x : Reg) (nn : Byte) (s : State) : Host.Outcome State Fault Refusal :=
  .next (s.advance.skipIf (s.reg x == nn))

/-- SNE Vx, nn, R106. -/
def execSneI (x : Reg) (nn : Byte) (s : State) : Host.Outcome State Fault Refusal :=
  .next (s.advance.skipIf (s.reg x != nn))

/-- SE Vx, Vy, R107. -/
def execSeR (x y : Reg) (s : State) : Host.Outcome State Fault Refusal :=
  .next (s.advance.skipIf (s.reg x == s.reg y))

/-- SNE Vx, Vy, R108. -/
def execSneR (x y : Reg) (s : State) : Host.Outcome State Fault Refusal :=
  .next (s.advance.skipIf (s.reg x != s.reg y))

end Sys2Proof.Machine
end

