-- ==== Sys2Proof/Machine/Display.lean ====
section
/-! DEFINITION. Display instructions and the sprite engine, 42_display.md. -/

namespace Sys2Proof.Machine

/-- The cell at column `(x mod 64)` and row `(y mod 32)` (10_state.md R18; 42_display.md R152). -/
def pixelCell (x y : Nat) : Fin 2048 := ⟨y % 32 * 64 + x % 64, by omega⟩

/-- The columns of the 1 bits of a sprite row, bit 7 leftmost (42_display.md R153). -/
def rowColumns (row : Byte) : List Nat := (List.range 8).filter fun c => row.getLsbD (7 - c)

/-- The cells under the 1 bits of row `r` of the sprite at `base`, drawn at (x0, y0). -/
def spriteRowCells (m : Memory) (base x0 y0 r : Nat) : List (Fin 2048) :=
  (rowColumns (m.get (base + r))).map fun c => pixelCell (x0 + c) (y0 + r)

/-- The cells under the 1 bits of a sprite of `z` rows, in the order DRW visits them (42_display.md R151). -/
def spriteCells (m : Memory) (base z x0 y0 : Nat) : List (Fin 2048) :=
  (List.range z).flatMap (spriteRowCells m base x0 y0)

/-- Toggle one cell, and note a collision if it was on (42_display.md R151). -/
def toggleCell (f : FrameBuffer × Bool) (i : Fin 2048) : FrameBuffer × Bool :=
  (FrameBuffer.toggle f.1 i, f.2 || FrameBuffer.cell f.1 i)

/-- Toggle cells one after the other, starting with no collision. -/
def toggleCells (f : FrameBuffer) (cells : List (Fin 2048)) : FrameBuffer × Bool := cells.foldl toggleCell (f, false)

/-- The cells a DRW Vx, Vy, z toggles in a state. -/
def State.drawCells (s : State) (x y : Reg) (z : Nat) : List (Fin 2048) :=
  spriteCells s.mem s.base z (s.reg x).toNat (s.reg y).toNat

/-- CLS, R150. -/
def execCls (s : State) : Host.Outcome State Fault Refusal := .next (s.advance.setFb FrameBuffer.blank)

/-- DRW Vx, Vy, z, R151: all rows are checked before a cell is toggled. -/
def execDrw (x y : Reg) (z : Nat) (s : State) : Host.Outcome State Fault Refusal :=
  if spanInMem s.base z then
    .next ((s.advance.setFb (toggleCells s.fb (s.drawCells x y z)).1).setReg VF
      (flagByte (toggleCells s.fb (s.drawCells x y z)).2))
  else takeFault .memOutOfBounds (encode (.drw x y z)) s

end Sys2Proof.Machine
end

