-- ==== Sys2Proof/Machine/Index.lean ====
section
/-! DEFINITION. Index-register and memory-transfer instructions, 43_index_memory.md. None writes VF as a flag; the
transfers leave `I` unchanged. -/

namespace Sys2Proof.Machine

/-- LD I, nnn, R170. -/
def execLdIdx (nnn : Addr12) (s : State) : Host.Outcome State Fault Refusal := .next (s.advance.setI (addrWord nnn))

/-- ADD I, Vx, R171: wraps at 16 bits, no flag. -/
def execAddIdx (x : Reg) (s : State) : Host.Outcome State Fault Refusal :=
  .next (s.advance.setI (s.I + byteWord (s.reg x)))

/-- LD F, Vx, R172: the whole byte times 5. -/
def execLdF (x : Reg) (s : State) : Host.Outcome State Fault Refusal := .next (s.advance.setI (byteWord (s.reg x) * 5))

/-- LD B, Vx, R176. -/
def execLdB (x : Reg) (s : State) : Host.Outcome State Fault Refusal :=
  if spanInMem s.base 3 then .next (s.advance.setMem (s.mem.putAll s.base (bcdDigits (s.reg x))))
  else takeFault .memOutOfBounds (encode (.ldB x)) s

/-- LD [I], Vx, R177. -/
def execStRegs (x : Reg) (s : State) : Host.Outcome State Fault Refusal :=
  if spanInMem s.base (x.val + 1) then .next (s.advance.setMem (s.mem.putAll s.base (s.regsUpTo x)))
  else takeFault .memOutOfBounds (encode (.stRegs x)) s

/-- LD Vx, [I], R178. -/
def execLdRegs (x : Reg) (s : State) : Host.Outcome State Fault Refusal :=
  if spanInMem s.base (x.val + 1) then
    .next (s.advance.setRegsBelow (x.val + 1) fun i => s.mem.get (s.base + i))
  else takeFault .memOutOfBounds (encode (.ldRegs x)) s

end Sys2Proof.Machine
end

