-- ==== Sys2Proof/Machine/Keys.lean ====
section
/-! DEFINITION. Keypad and timer instructions, 44_keys_timers.md. -/

namespace Sys2Proof.Machine

/-- Skip on a key flag, or fault on a key index above 15 (44_keys_timers.md R190, R191). -/
def skipOnKey (x : Reg) (wanted : Bool) (op : Word) (s : State) : Host.Outcome State Fault Refusal :=
  if h : (s.reg x).toNat < 16 then .next (s.advance.skipIf (s.keys[(s.reg x).toNat] == wanted))
  else takeFault .keyIndexOutOfRange op s

/-- SKP Vx, R190. -/
def execSkp (x : Reg) (s : State) : Host.Outcome State Fault Refusal := skipOnKey x true (encode (.skp x)) s

/-- SKNP Vx, R191. -/
def execSknp (x : Reg) (s : State) : Host.Outcome State Fault Refusal := skipOnKey x false (encode (.sknp x)) s

/-- LD Vx, K, R192: with no key pressed the advance is undone. -/
def execLdVxK (x : Reg) (s : State) : Host.Outcome State Fault Refusal :=
  match s.lowestKey with
  | none => .next (s.advance.setPc (s.advance.pc - 2))
  | some k => .next (s.advance.setReg x (BitVec.ofNat 8 k))

/-- LD Vx, DT, R193. -/
def execLdVxDt (x : Reg) (s : State) : Host.Outcome State Fault Refusal := .next (s.advance.setReg x s.DT)

/-- LD DT, Vx, R194. -/
def execLdDtVx (x : Reg) (s : State) : Host.Outcome State Fault Refusal := .next (s.advance.setDT (s.reg x))

/-- LD ST, Vx, R195. -/
def execLdStVx (x : Reg) (s : State) : Host.Outcome State Fault Refusal := .next (s.advance.setST (s.reg x))

end Sys2Proof.Machine
end

