-- ==== Sys2Proof/Machine/Step.lean ====
section
/-! DEFINITION. The `step` event (30_encoding.md R60; 50_interfaces.md R213). -/

namespace Sys2Proof.Machine

/-- One step: nothing while a fault is latched, a fault of the fetch or the dispatch, or the meaning of the instruction
at `pc`. -/
def step (s : State) : Host.Outcome State Fault Refusal :=
  match s.fetch with
  | .quiescent => .next s
  | .faults c op => takeFault c op s
  | .instr i => exec i s

/-- `s` with the instruction `w` stored where the next step fetches it; only memory changes. It stands for the host's
`load_program` (notes/assumptions/7.md). -/
def State.withFetchWord (s : State) (nbits w : Nat) : State := s.setMem (s.mem.putWord s.pc.toNat (tableWord nbits w))

end Sys2Proof.Machine
end

