-- ==== Sys2Proof/Machine/Events.lean ====
section
/-! DEFINITION. The host's side of the core: the events and reads of 50_interfaces.md R210 to R222. `step` of Step.lean
is one of the events; the others stand here beside it, and the order in which the host delivers them is free (R211;
notes/assumptions/8.md). -/

namespace Sys2Proof.Machine

/-- The events of R210. -/
inductive Event where
  | reset
  | loadProgram (bytes : List Byte)
  | setKey (index : Nat) (pressed : Bool)
  | tickTimers
  | step (rnd : Byte)
  deriving DecidableEq, Repr

/-- `reset`, R218 and 70_reset_and_hazards.md R270: the reset state whatever the state was. The counter of free draws is
no part of the core and goes on, so that draws after a reset are fresh (notes/assumptions/12.md). -/
def State.afterReset (s : State) : State := { State.reset with drawIdx := s.drawIdx }

/-- An image `load_program` accepts: at most 3584 bytes (R216, R221). -/
def imageFits (bytes : List Byte) : Bool := decide (bytes.length ≤ Config.maxProgLen)

/-- `load_program(bytes)`, R216: nothing while a fault is latched or when the image is too long. -/
def State.loadProgram (s : State) (bytes : List Byte) : State :=
  if s.running && imageFits bytes then s.setMem (s.mem.putAll Config.progBase bytes) else s

/-- `set_key(index, pressed)`, R217. -/
def State.setKey (s : State) (index : Nat) (pressed : Bool) : State :=
  if h : index < 16 then
    if s.running then s.setKeyFlag ⟨index, h⟩ pressed else s
  else s

/-- One down-count with floor 0. -/
def countDown (b : Byte) : Byte := if b = 0 then 0 else b - 1

/-- `tick_timers`, R215: the two timers. -/
def State.tickTimers (s : State) : State :=
  if s.running then (s.setDT (countDown s.DT)).setST (countDown s.ST) else s

/-- The result `tone_stop` of a tick in a state, R215: it is not stored. -/
def State.toneStop (s : State) : Bool := s.running && s.ST == 1

/-- The `step(rnd)` event, R213 and 41_alu.md R134: a step whose draw is `rnd`. The draw is gone after the step, used or
not; draws injected for later steps stay. -/
def stepWith (rnd : Byte) (s : State) : Host.Outcome State Fault Refusal :=
  match step (s.setDraws (rnd :: s.draws)) with
  | .next t => .next (t.setDraws s.draws)
  | .fault f => .fault f
  | .refused r => .refused r

/-- The transition of an event. -/
def Event.apply (e : Event) (s : State) : Host.Outcome State Fault Refusal :=
  match e with
  | .reset => .next s.afterReset
  | .loadProgram bytes => .next (s.loadProgram bytes)
  | .setKey index pressed => .next (s.setKey index pressed)
  | .tickTimers => .next s.tickTimers
  | .step rnd => stepWith rnd s

/-- The event is rejected as a violated precondition, R221: no state change and no fault. -/
def Event.rejected (e : Event) : Bool :=
  match e with
  | .loadProgram bytes => !imageFits bytes
  | .setKey index _ => decide (16 ≤ index)
  | .reset | .tickTimers | .step _ => false

/-- A sequence of events, in order (R211). -/
def runEvents : List Event → State → Host.Outcome State Fault Refusal
  | [], s => .next s
  | e :: es, s =>
    match e.apply s with
    | .next t => runEvents es t
    | .fault f => .fault f
    | .refused r => .refused r

/-! ## Reads (R219, R220): they change nothing -/

/-- `framebuffer`: the cell at column px and row py. -/
def State.framebuffer (s : State) (px : Fin 64) (py : Fin 32) : Bool := FrameBuffer.cell s.fb ⟨py.val * 64 + px.val, by omega⟩

/-- `sound_active`. -/
def State.soundActive (s : State) : Bool := s.ST != 0

/-- The 3-bit code of a cause, 60_exceptions.md R241. -/
def faultCode (c : FaultCause) : BitVec 3 :=
  match c with
  | .noFault => 0
  | .memOutOfBounds => 1
  | .stackOverflow => 2
  | .stackUnderflow => 3
  | .illegalOpcode => 4
  | .keyIndexOutOfRange => 5

/-- Requests that coincide in one clock cycle, R212. -/
structure Requests where
  reset : Bool
  load : Option (List Byte)
  key : Option (Nat × Bool)
  tick : Bool
  step : Option Byte
  deriving DecidableEq, Repr

/-- Coincident requests as events in their fixed order: reset, load_program, set_key, tick_timers, step (R212). -/
def requestEvents (q : Requests) : List Event :=
  (if q.reset then [Event.reset] else []) ++
  (match q.load with | some bytes => [Event.loadProgram bytes] | none => []) ++
  (match q.key with | some k => [Event.setKey k.1 k.2] | none => []) ++
  (if q.tick then [Event.tickTimers] else []) ++
  (match q.step with | some rnd => [Event.step rnd] | none => [])

end Sys2Proof.Machine
end

