-- ==== Sys2Proof/Machine/Signals.lean ====
section
/-! DEFINITION. The signal-level rendering of 50_interfaces.md R223, which the spec gives as informative: input strobes
sampled on a rising clock edge, and the output ports. Every event completes within its edge (notes/assumptions/13.md). -/

namespace Sys2Proof.Machine

/-- The input ports of R223. -/
structure InPorts where
  rst : Bool
  stepReq : Bool
  rnd : Byte
  tickReq : Bool
  keyWe : Bool
  keyIdx : Nibble
  keyVal : Bool
  ldWe : Bool
  ldOff : Addr12
  ldData : Byte
  fbAddr : BitVec 11
  deriving DecidableEq, Repr

/-- The output ports of R223. -/
structure OutPorts where
  fbQ : Bool
  toneStop : Bool
  soundActive : Bool
  faultCause : BitVec 3
  faultOpcode : Word
  faultPc : Word
  busy : Bool
  deriving DecidableEq, Repr

/-- One byte of a `load_program` burst goes to 0x200 + `ld_off`; an offset of 3584 or more is ignored. -/
def State.loadByte (s : State) (off : Addr12) (b : Byte) : State :=
  if s.running && decide (off.toNat < Config.maxProgLen) then s.setMem (s.mem.put (Config.progBase + off.toNat) b) else s

/-- The state the coincident tick and step of an edge find: reset, then the load byte, then the key (R212). -/
def edgeInputs (p : InPorts) (s : State) : State :=
  let s1 := if p.rst then s.afterReset else s
  let s2 := if p.ldWe then s1.loadByte p.ldOff p.ldData else s1
  if p.keyWe then s2.setKey p.keyIdx.toNat p.keyVal else s2

/-- The state the coincident step of an edge finds. -/
def edgeTick (p : InPorts) (s : State) : State :=
  if p.tickReq then (edgeInputs p s).tickTimers else edgeInputs p s

/-- One rising edge of `clk`. -/
def clockEdge (p : InPorts) (s : State) : Host.Outcome State Fault Refusal :=
  if p.stepReq then stepWith p.rnd (edgeTick p s) else .next (edgeTick p s)

/-- The outputs of the cycle whose edge took `before` to `after`. -/
def outputs (p : InPorts) (before after : State) : OutPorts where
  fbQ := FrameBuffer.cell after.fb p.fbAddr.toFin
  toneStop := p.tickReq && (edgeInputs p before).toneStop
  soundActive := after.soundActive
  faultCause := faultCode after.fault.cause
  faultOpcode := after.fault.opcode
  faultPc := after.fault.pc
  busy := false

end Sys2Proof.Machine
end

