-- ==== Sys2Proof/Safety.lean ====
section
/-! DEFINITION. The terms in which claims are made: the parts of the state and what leaves them unchanged, the
invariant of the machine, and what the spec calls ended and waiting. -/

namespace Sys2Proof.Machine

/-- The parts of the state (10_state.md R10), and the model's own draw fields. `stack` is the entries and `sp`. -/
inductive Part where
  | mem | regs | index | pc | stack | keys | fb | dt | st | fault | draws
  deriving DecidableEq, Repr

/-- The part is the same in both states; memory byte by byte, through the read of one byte. -/
def Part.Same (p : Part) (s t : State) : Prop :=
  match p with
  | .mem => ∀ a, t.mem.get a = s.mem.get a
  | .regs => ∀ r, t.reg r = s.reg r
  | .index => t.I = s.I
  | .pc => t.pc = s.pc
  | .stack => t.stack = s.stack ∧ t.sp = s.sp
  | .keys => t.keys = s.keys
  | .fb => t.fb = s.fb
  | .dt => t.DT = s.DT
  | .st => t.ST = s.ST
  | .fault => t.fault = s.fault
  | .draws => t.draws = s.draws ∧ t.drawIdx = s.drawIdx

/-- A frame: every part outside `but` is the same. -/
def UnchangedBut (but : List Part) (s t : State) : Prop := ∀ p, p ∉ but → p.Same s t

/-- Every register outside `dests` is the same. -/
def SameRegsBut (dests : List Reg) (s t : State) : Prop := ∀ r, r ∉ dests → t.reg r = s.reg r

/-- Every byte outside the `n` bytes from `base` reads the same. -/
def SameMemOutside (base n : Nat) (s t : State) : Prop :=
  ∀ a, ¬ (base ≤ a ∧ a < base + n) → t.mem.get a = s.mem.get a

/-- The decoder gives `i` for the word `w` and for no other. -/
def EncodedAs (i : Instr) (w : Word) : Prop := ∀ v, decodeWord v = .ok i ↔ v = w

/-- `t` is `s` with a fault latched on the instruction at `s.pc`, and nothing else changed (60_exceptions.md R243). -/
def Latched (c : FaultCause) (op : Word) (s t : State) : Prop :=
  t.fault = { cause := c, opcode := op, pc := s.pc } ∧ UnchangedBut [.fault] s t

/-- The effect of an instruction whose one result is the value `v` in `V[x]`: `pc` advances by 2, every other register and
every other part is the same. -/
def WritesReg (x : Reg) (v : Nat) (s t : State) : Prop :=
  t.pc = s.pc + 2 ∧ (t.reg x).toNat = v ∧ SameRegsBut [x] s t ∧ UnchangedBut [.regs, .pc] s t

/-- The effect of an instruction with a result `v` in `V[x]` and a flag `f` in VF: with x = F the flag is what VF holds. -/
def WritesRegAndFlag (x : Reg) (v f : Nat) (s t : State) : Prop :=
  t.pc = s.pc + 2 ∧ (x ≠ VF → (t.reg x).toNat = v) ∧ (t.reg VF).toNat = f ∧ SameRegsBut [x, VF] s t ∧
    UnchangedBut [.regs, .pc] s t

/-- Cell `i` lies under a 1 bit of the sprite that DRW Vx, Vy, z draws in `s`: row `r` is the byte at `I + r`, its bit 7
leftmost, drawn at column `(Vx + c) mod 64` and row `(Vy + r) mod 32` (42_display.md R151 to R153). -/
def UnderSprite (s : State) (x y : Reg) (z : Nat) (i : Fin 2048) : Prop :=
  ∃ r c : Nat, r < z ∧ c < 8 ∧ (s.mem.get (s.I.toNat + r)).getLsbD (7 - c) = true ∧
    i.val = ((s.reg y).toNat + r) % 32 * 64 + ((s.reg x).toNat + c) % 64

/-- The mnemonics of the six instructions that write VF as a flag (10_state.md R12). -/
def flagWriters : List String := ["ADD_R", "SUB", "SHR", "SUBN", "SHL", "DRW"]

/-- VF is the destination the instruction names, or the last register a block load reaches (10_state.md R12). -/
def Instr.namesVF (i : Instr) : Prop :=
  match i with
  | .ldI x _ | .addI x _ | .ldR x _ | .or x _ | .and x _ | .xor x _ | .addR x _ | .sub x _ | .shr x _ | .subn x _
  | .shl x _ | .rnd x _ | .ldVxDt x | .ldVxK x | .ldRegs x => x = VF
  | .nop | .cls | .ret | .jp _ | .call _ | .seI _ _ | .sneI _ _ | .seR _ _ | .sneR _ _ | .ldIdx _ | .jpV0 _
  | .drw _ _ _ | .skp _ | .sknp _ | .ldDtVx _ | .ldStVx _ | .addIdx _ | .ldF _ | .ldB _ | .stRegs _ => False

/-- What a latched record says of the state it was latched in and left in (60_exceptions.md R241, R243): the record of
no fault is clear; any other holds the `pc`, which still points at the faulting instruction; and the causes that CALL,
RET and the dispatch raise fit the stack and the opcode. -/
def FaultFits (s : State) : Prop :=
  match s.fault.cause with
  | .noFault => s.fault = .clear
  | .memOutOfBounds => s.fault.pc = s.pc
  | .stackOverflow => s.fault.pc = s.pc ∧ s.sp = 16 ∧ ∃ nnn, decodeWord s.fault.opcode = .ok (.call nnn)
  | .stackUnderflow => s.fault.pc = s.pc ∧ s.sp = 0 ∧ s.fault.opcode = 0x00EE
  | .illegalOpcode => s.fault.pc = s.pc ∧ decodeWord s.fault.opcode = .error (.illegalOpcode s.fault.opcode)
  | .keyIndexOutOfRange =>
    s.fault.pc = s.pc ∧
      ∃ x, (decodeWord s.fault.opcode = .ok (.skp x) ∨ decodeWord s.fault.opcode = .ok (.sknp x)) ∧
        15 < (s.reg x).toNat

/-- The invariant of the machine: memory is in its canonical form; `pc` and the stack entries stay in the ranges that
10_state.md R14 and R15 derive; the fault record fits the state. -/
structure State.Inv (s : State) : Prop where
  memWf : s.mem.wf = true
  pcBound : s.pc.toNat ≤ 0x10FE
  stackBound : ∀ j : Fin 16, (s.stack[j]).toNat ≤ 0x1000
  faultFits : FaultFits s

/-- The program has ended, by the convention of 70_reset_and_hazards.md R285: a self-jump at `pc`, no fault. -/
def State.Ended (s : State) : Prop := ∃ nnn, s.fetch = .instr (.jp nnn) ∧ addrWord nnn = s.pc

/-- The core waits for a key (44_keys_timers.md R196): LD_VX_K at `pc`, no key pressed. -/
def State.Waiting (s : State) : Prop := ∃ x, s.fetch = .instr (.ldVxK x) ∧ ∀ k : Fin 16, s.keys[k] = false

end Sys2Proof.Machine
end

