-- ==== Sys2Proof/Certificates/Slice0/Obligations.lean ====
section
/-! DEFINITION. What is claimed of the model, for the provers. Each docstring names the rules of spec/ it rests on. Words
are written out from the matches and fields of 30_encoding.md R65, not taken from the encoder. -/

open Sys2Proof Sys2Proof.Machine

/-! ## Encoding -/

/-- The decoder reads back every instruction the encoder writes, at every value of every operand, and takes exactly its
two bytes (30_encoding.md R60 to R65). -/
def Obligations.DecodeOfEncodeIsTheInstruction : Prop :=
  ∀ (i : Instr) (rest : List Byte), i.WellFormed →
    decodeWord (encode i) = .ok i ∧ decode (encodeBytes i ++ rest) = .ok (i, rest)

/-- A word that decodes is the encoding of what it decodes to: no bit of an opcode is dropped (30_encoding.md R61, R63). -/
def Obligations.EncodeOfDecodedWordIsTheWord : Prop :=
  ∀ (w : Word) (i : Instr), decodeWord w = .ok i → i.WellFormed ∧ encode i = w

/-- The decoder gives an instruction exactly for the words that match a row of the opcode table; the row bears its name
and is the only one the word matches; a word that matches none is refused by name (30_encoding.md R65, R66, R70). -/
def Obligations.DecoderFollowsTheOpcodeTable : Prop :=
  ∀ w : Word,
    (∀ i, decodeWord w = .ok i →
      ∃ r ∈ opcodeTable, r.mnemonic = i.mnemonic ∧ w &&& r.mask = r.code ∧
        ∀ q ∈ opcodeTable, w &&& q.mask = q.code → q = r) ∧
    ((∀ r ∈ opcodeTable, w &&& r.mask ≠ r.code) ↔ decodeWord w = .error (.illegalOpcode w))

/-- The illegal opcodes are exactly the groups 30_encoding.md R70 lists; every other word decodes. -/
def Obligations.IllegalOpcodesAreTheListedGroups : Prop :=
  ∀ w : Word,
    (decodeWord w = .error (.illegalOpcode w) ↔
      (w.toNat / 4096 = 0x0 ∧ w ≠ 0x0000 ∧ w ≠ 0x00E0 ∧ w ≠ 0x00EE) ∨
      (w.toNat / 4096 = 0x5 ∧ w.toNat % 16 ≠ 0) ∨
      (w.toNat / 4096 = 0x8 ∧ w.toNat % 16 ∈ [0x8, 0x9, 0xA, 0xB, 0xC, 0xD, 0xF]) ∨
      (w.toNat / 4096 = 0x9 ∧ w.toNat % 16 ≠ 0) ∨
      (w.toNat / 4096 = 0xE ∧ w.toNat % 256 ∉ [0x9E, 0xA1]) ∨
      (w.toNat / 4096 = 0xF ∧ w.toNat % 256 ∉ [0x07, 0x0A, 0x15, 0x18, 0x1E, 0x29, 0x33, 0x55, 0x65])) ∧
    (decodeWord w = .error (.illegalOpcode w) ∨ ∃ i, decodeWord w = .ok i)

/-- A word of each format, written out from 30_encoding.md R62 and R65, decodes to the instruction it stands for. -/
def Obligations.WrittenOutWordsDecode : Prop :=
  decodeWord 0b0000000011101110 = .ok .ret ∧
  decodeWord 0b0001001000110100 = .ok (.jp 0x234) ∧
  decodeWord 0b0110101001010101 = .ok (.ldI 10 0x55) ∧
  decodeWord 0b1000000100100101 = .ok (.sub 1 2) ∧
  decodeWord 0b1101000100101111 = .ok (.drw 1 2 15) ∧
  decodeWord 0b1110111110100001 = .ok (.sknp 15) ∧
  decodeWord 0b1111001101010101 = .ok (.stRegs 3) ∧
  decodeWord 0b1000000000001000 = .error (.illegalOpcode 0x8008)

/-- The opcode at an address is its two bytes, high byte first, at odd and even addresses alike; there is none exactly
when the second byte would lie at 4096 or above (20_memory.md R41, R42, R44). -/
def Obligations.FetchIsBigEndianAtAnyAlignment : Prop :=
  ∀ (m : Memory) (a : Nat),
    (a + 1 < 4096 → ∃ w, m.fetchWord a = some w ∧ w.toNat = (m.get a).toNat * 256 + (m.get (a + 1)).toNat) ∧
    (4096 ≤ a + 1 → m.fetchWord a = none)

/-! ## The step -/

/-- With no fault latched, a step whose two bytes at `pc` exist and decode to `i` is `exec i`; the step adds nothing
(30_encoding.md R60). -/
def Obligations.StepRunsTheDecodedInstruction : Prop :=
  ∀ (s : State) (i : Instr), s.fault.cause = .noFault → s.pc.toNat + 1 < 4096 →
    decodeWord (bytesToWord (s.mem.get s.pc.toNat) (s.mem.get (s.pc.toNat + 1))) = .ok i → step s = exec i s

/-- A fetch past the end of memory latches MemOutOfBounds with opcode 0x0000 (30_encoding.md R60; 20_memory.md R44). -/
def Obligations.FetchPastTheEndLatchesMemOutOfBounds : Prop :=
  ∀ s : State, s.fault.cause = .noFault → 4095 ≤ s.pc.toNat →
    ∃ t, step s = .next t ∧ Latched .memOutOfBounds 0x0000 s t

/-- A word that matches no row latches IllegalOpcode with the raw opcode and changes nothing else (30_encoding.md R70). -/
def Obligations.IllegalOpcodeLatchesTheRawOpcode : Prop :=
  ∀ (s : State) (w : Word), s.fault.cause = .noFault → s.mem.fetchWord s.pc.toNat = some w →
    (∀ r ∈ opcodeTable, w &&& r.mask ≠ r.code) → ∃ t, step s = .next t ∧ Latched .illegalOpcode w s t

/-- A step always completes, in every state: it never stops outside the state (50_interfaces.md R213). -/
def Obligations.StepAlwaysAnswersANextState : Prop := ∀ s : State, ∃ t, step s = .next t

/-- While a fault is latched no event but `reset` changes anything, a tick gives no `tone_stop`, and `reset` clears the
fault (60_exceptions.md R245: "so this is the spec's choice"). -/
def Obligations.FaultedCoreIsQuiescent : Prop :=
  ∀ s : State, s.fault.cause ≠ .noFault →
    step s = .next s ∧ (∀ rnd, (Event.step rnd).apply s = .next s) ∧
    Event.tickTimers.apply s = .next s ∧ s.toneStop = false ∧
    (∀ index pressed, (Event.setKey index pressed).apply s = .next s) ∧
    (∀ bytes, (Event.loadProgram bytes).apply s = .next s) ∧
    ∃ t, Event.reset.apply s = .next t ∧ t.fault.cause = .noFault

/-- The conditions under which a step latches each cause are exactly those of the table of 60_exceptions.md R241, and
the causes have its codes; a step that latches a fault changes nothing but the record, which holds the address of the
instruction and its opcode, 0 when it could not be fetched. The codes, the fifth cause and all-or-nothing are choices the
spec marks as its own (R241, R243: "All-or-nothing is one behaviour that sentence allows"; notes/assumptions/5.md). -/
def Obligations.FaultCausesAreThoseOfTheTable : Prop :=
  (∀ s t : State, s.fault.cause = .noFault → step s = .next t →
    (t.fault.cause = .memOutOfBounds ↔
      4096 ≤ s.pc.toNat + 1 ∨
      (∃ x y z, s.fetch = .instr (.drw x y z) ∧ 1 ≤ z ∧ 4096 ≤ s.I.toNat + z - 1) ∨
      (∃ x, s.fetch = .instr (.ldB x) ∧ 4096 ≤ s.I.toNat + 2) ∨
      (∃ x, (s.fetch = .instr (.stRegs x) ∨ s.fetch = .instr (.ldRegs x)) ∧ 4096 ≤ s.I.toNat + x.val)) ∧
    (t.fault.cause = .stackOverflow ↔ ∃ nnn, s.fetch = .instr (.call nnn) ∧ s.sp = 16) ∧
    (t.fault.cause = .stackUnderflow ↔ s.fetch = .instr .ret ∧ s.sp = 0) ∧
    (t.fault.cause = .illegalOpcode ↔
      ∃ w, s.mem.fetchWord s.pc.toNat = some w ∧ ∀ r ∈ opcodeTable, w &&& r.mask ≠ r.code) ∧
    (t.fault.cause = .keyIndexOutOfRange ↔
      ∃ x, (s.fetch = .instr (.skp x) ∨ s.fetch = .instr (.sknp x)) ∧ 15 < (s.reg x).toNat) ∧
    (t.fault.cause ≠ .noFault →
      t = { s with fault := { cause := t.fault.cause, opcode := (s.mem.fetchWord s.pc.toNat).getD 0, pc := s.pc } }) ∧
    (t.fault.cause = .noFault → t.fault = s.fault)) ∧
  faultCode .noFault = 0 ∧ faultCode .memOutOfBounds = 1 ∧ faultCode .stackOverflow = 2 ∧
  faultCode .stackUnderflow = 3 ∧ faultCode .illegalOpcode = 4 ∧ faultCode .keyIndexOutOfRange = 5

/-! ## The invariant -/

/-- The invariant holds after reset. -/
def Obligations.InvariantHoldsAtReset : Prop := State.reset.Inv

/-- Every step keeps the invariant: canonical memory, `pc` at most 0x10FE, stack entries at most 0x1000, a fault record
that fits the state (10_state.md R14, R15, R16, R21; 60_exceptions.md R243). -/
def Obligations.StepKeepsTheInvariant : Prop := ∀ s t : State, s.Inv → step s = .next t → t.Inv

/-- Every event of the host keeps the invariant too (50_interfaces.md R211). -/
def Obligations.EveryEventKeepsTheInvariant : Prop :=
  ∀ (e : Event) (s t : State), s.Inv → e.apply s = .next t → t.Inv

/-! ## Rules of the whole machine -/

/-- Each part of the state is changed by the instructions that the write column of 10_state.md R24 names for it, and by
no other; `keys` by none. -/
def Obligations.InstructionsWriteOnlyWhatTheAccessMatrixNames : Prop :=
  ∀ (i : Instr) (s t : State), exec i s = .next t →
    (¬ Part.mem.Same s t → i.mnemonic ∈ ["LD_B", "ST_REGS"]) ∧
    (¬ Part.regs.Same s t → i.mnemonic ∈ ["LD_I", "ADD_I", "LD_R", "OR", "AND", "XOR", "ADD_R", "SUB", "SHR", "SUBN",
      "SHL", "RND", "DRW", "LD_VX_DT", "LD_VX_K", "LD_REGS"]) ∧
    (¬ Part.index.Same s t → i.mnemonic ∈ ["LD_IDX", "ADD_IDX", "LD_F"]) ∧
    (t.stack ≠ s.stack → i.mnemonic = "CALL") ∧ (t.sp ≠ s.sp → i.mnemonic ∈ ["CALL", "RET"]) ∧
    Part.keys.Same s t ∧
    (¬ Part.fb.Same s t → i.mnemonic ∈ ["CLS", "DRW"]) ∧
    (¬ Part.dt.Same s t → i.mnemonic = "LD_DT_VX") ∧ (¬ Part.st.Same s t → i.mnemonic = "LD_ST_VX")

/-- VF changes only in the six instructions that write it as a flag or in one that names it as a destination, and the
flag written is 0 or 1. The second clause names the parameter SHIFT_VF_ALIAS as a premise (10_state.md R12). -/
def Obligations.VfIsAFlagOfExactlySixInstructions : Prop :=
  ∀ (i : Instr) (s t : State), exec i s = .next t →
    (t.reg VF ≠ s.reg VF → i.mnemonic ∈ flagWriters ∨ Instr.namesVF i) ∧
    (Config.shiftVfAlias = .flagLast → i.mnemonic ∈ flagWriters →
      (t.reg VF).toNat ≤ 1 ∨ ∃ c op, Latched c op s t)

/-- Given the state, a step other than RND does not depend on the random source (41_alu.md R134). -/
def Obligations.OnlyRndReadsTheDraw : Prop :=
  ∀ (s t : State) (ds : List Byte) (n : Nat), (∀ x nn, s.fetch ≠ .instr (.rnd x nn)) → step s = .next t →
    step { s with draws := ds, drawIdx := n } = .next { t with draws := ds, drawIdx := n }

/-- No step reads the sound timer: two states that differ in ST alone step to states that differ in ST alone, and then
only if the step was not LD_ST_VX (10_state.md R19; 44_keys_timers.md R195). -/
def Obligations.NoInstructionReadsTheSoundTimer : Prop :=
  ∀ (s t : State) (v : Byte), step s = .next t →
    ∃ u, step { s with ST := v } = .next u ∧ { u with ST := t.ST } = t ∧
      ((∃ x, s.fetch = .instr (.ldStVx x)) → u = t) ∧ ((∀ x, s.fetch ≠ .instr (.ldStVx x)) → u.ST = v)

/-! ## Control flow -/

/-- NOP, 40_control_flow.md R100. -/
def Obligations.NopOnlyAdvances : Prop :=
  EncodedAs .nop 0x0000 ∧ ∀ s, ∃ t, exec .nop s = .next t ∧ t.pc = s.pc + 2 ∧ UnchangedBut [.pc] s t

/-- RET, 40_control_flow.md R101: pop into `pc`, or StackUnderflow. The entry popped is at most 0x1000 in every state that
meets the invariant, that is, when only CALL has pushed. -/
def Obligations.RetPopsThePcOrUnderflows : Prop :=
  EncodedAs .ret 0x00EE ∧
  (∀ (s : State) (j : Fin 16), s.sp.val = j.val + 1 →
    ∃ t, exec .ret s = .next t ∧ t.pc = s.stack[j] ∧ t.sp.val = j.val ∧ t.stack = s.stack ∧
      UnchangedBut [.pc, .stack] s t ∧ (s.Inv → t.pc.toNat ≤ 0x1000)) ∧
  ∀ s : State, s.sp.val = 0 → ∃ t, exec .ret s = .next t ∧ Latched .stackUnderflow 0x00EE s t

/-- JP, 40_control_flow.md R102; a jump to its own address is a fixed point. -/
def Obligations.JpLoadsThePc : Prop :=
  ∀ nnn : Addr12, EncodedAs (.jp nnn) (BitVec.ofNat 16 (0x1000 + nnn.toNat)) ∧
    (∀ s, ∃ t, exec (.jp nnn) s = .next t ∧ t.pc.toNat = nnn.toNat ∧ UnchangedBut [.pc] s t) ∧
    ∀ s : State, s.pc.toNat = nnn.toNat → exec (.jp nnn) s = .next s

/-- CALL, 40_control_flow.md R103: push the address after the CALL and jump, or StackOverflow. -/
def Obligations.CallPushesAndJumpsOrOverflows : Prop :=
  ∀ nnn : Addr12, EncodedAs (.call nnn) (BitVec.ofNat 16 (0x2000 + nnn.toNat)) ∧
    (∀ (s : State) (j : Fin 16), s.sp.val = j.val →
      ∃ t, exec (.call nnn) s = .next t ∧ t.stack[j] = s.pc + 2 ∧ (∀ k : Fin 16, k ≠ j → t.stack[k] = s.stack[k]) ∧
        t.sp.val = j.val + 1 ∧ t.pc.toNat = nnn.toNat ∧ UnchangedBut [.pc, .stack] s t) ∧
    ∀ s : State, s.sp.val = 16 →
      ∃ t, exec (.call nnn) s = .next t ∧ Latched .stackOverflow (BitVec.ofNat 16 (0x2000 + nnn.toNat)) s t

/-- JP V0, nnn, 40_control_flow.md R104: the sum is not reduced modulo 4096. -/
def Obligations.JpV0AddsV0 : Prop :=
  ∀ nnn : Addr12, EncodedAs (.jpV0 nnn) (BitVec.ofNat 16 (0xB000 + nnn.toNat)) ∧
    ∀ s : State, ∃ t, exec (.jpV0 nnn) s = .next t ∧ t.pc.toNat = (s.reg 0).toNat + nnn.toNat ∧ UnchangedBut [.pc] s t

/-- SE and SNE with an immediate, 40_control_flow.md R105, R106: 2 more on the advanced `pc`, nothing else. -/
def Obligations.ImmediateSkipsCompareWithTheByte : Prop :=
  ∀ (x : Reg) (nn : Byte),
    EncodedAs (.seI x nn) (BitVec.ofNat 16 (0x3000 + x.val * 256 + nn.toNat)) ∧
    EncodedAs (.sneI x nn) (BitVec.ofNat 16 (0x4000 + x.val * 256 + nn.toNat)) ∧
    ∀ s : State,
      (∃ t, exec (.seI x nn) s = .next t ∧ t.pc = (if (s.reg x).toNat = nn.toNat then s.pc + 4 else s.pc + 2) ∧
        UnchangedBut [.pc] s t) ∧
      ∃ t, exec (.sneI x nn) s = .next t ∧ t.pc = (if (s.reg x).toNat = nn.toNat then s.pc + 2 else s.pc + 4) ∧
        UnchangedBut [.pc] s t

/-- SE and SNE with a register, 40_control_flow.md R107, R108. -/
def Obligations.RegisterSkipsCompareTheRegisters : Prop :=
  ∀ x y : Reg,
    EncodedAs (.seR x y) (BitVec.ofNat 16 (0x5000 + x.val * 256 + y.val * 16)) ∧
    EncodedAs (.sneR x y) (BitVec.ofNat 16 (0x9000 + x.val * 256 + y.val * 16)) ∧
    ∀ s : State,
      (∃ t, exec (.seR x y) s = .next t ∧
        t.pc = (if (s.reg x).toNat = (s.reg y).toNat then s.pc + 4 else s.pc + 2) ∧ UnchangedBut [.pc] s t) ∧
      ∃ t, exec (.sneR x y) s = .next t ∧
        t.pc = (if (s.reg x).toNat = (s.reg y).toNat then s.pc + 2 else s.pc + 4) ∧ UnchangedBut [.pc] s t

/-- Running off a program, 70_reset_and_hazards.md R283: over zeroed memory the core walks NOPs, two bytes a step, to
0x1000, and the fetch there faults. -/
def Obligations.ZeroedMemoryIsWalkedToTheEnd : Prop :=
  ∀ (n : Nat) (s : State), s.fault.cause = .noFault → s.pc.toNat + 2 * n = 4096 →
    (∀ a, s.pc.toNat ≤ a → a < 4096 → s.mem.get a = 0) →
    Host.Core.run core n s = .next (s.setPc 0x1000) ∧
    Host.Core.run core (n + 1) s = .next ((s.setPc 0x1000).latch .memOutOfBounds 0x0000)

/-- An ended program stays ended: with a self-jump at `pc` and no fault, a step changes nothing
(70_reset_and_hazards.md R285). -/
def Obligations.EndedProgramStaysEnded : Prop := ∀ s : State, s.Ended → step s = .next s

/-! ## Loads, arithmetic, logic, shifts, random -/

/-- LD Vx, nn and ADD Vx, nn, 41_alu.md R122, R123: the sum wraps and there is no flag. -/
def Obligations.ImmediateLoadAndAdd : Prop :=
  ∀ (x : Reg) (nn : Byte),
    EncodedAs (.ldI x nn) (BitVec.ofNat 16 (0x6000 + x.val * 256 + nn.toNat)) ∧
    EncodedAs (.addI x nn) (BitVec.ofNat 16 (0x7000 + x.val * 256 + nn.toNat)) ∧
    ∀ s : State,
      (∃ t, exec (.ldI x nn) s = .next t ∧ WritesReg x nn.toNat s t) ∧
      ∃ t, exec (.addI x nn) s = .next t ∧ WritesReg x (((s.reg x).toNat + nn.toNat) % 256) s t

/-- LD, OR, AND, XOR between registers, 41_alu.md R124 to R127: VF is written only as the destination, which the spec
infers (R125: "this spec takes the table as listing every effect"). -/
def Obligations.RegisterCopyAndLogic : Prop :=
  ∀ x y : Reg,
    EncodedAs (.ldR x y) (BitVec.ofNat 16 (0x8000 + x.val * 256 + y.val * 16)) ∧
    EncodedAs (.or x y) (BitVec.ofNat 16 (0x8001 + x.val * 256 + y.val * 16)) ∧
    EncodedAs (.and x y) (BitVec.ofNat 16 (0x8002 + x.val * 256 + y.val * 16)) ∧
    EncodedAs (.xor x y) (BitVec.ofNat 16 (0x8003 + x.val * 256 + y.val * 16)) ∧
    ∀ s : State,
      (∃ t, exec (.ldR x y) s = .next t ∧ WritesReg x (s.reg y).toNat s t) ∧
      (∃ t, exec (.or x y) s = .next t ∧ WritesReg x ((s.reg x).toNat ||| (s.reg y).toNat) s t) ∧
      (∃ t, exec (.and x y) s = .next t ∧ WritesReg x ((s.reg x).toNat &&& (s.reg y).toNat) s t) ∧
      ∃ t, exec (.xor x y) s = .next t ∧ WritesReg x ((s.reg x).toNat ^^^ (s.reg y).toNat) s t

/-- ADD Vx, Vy, 41_alu.md R128: the wrapped sum, and VF is the carry, written last. -/
def Obligations.AddSetsCarry : Prop :=
  ∀ x y : Reg, EncodedAs (.addR x y) (BitVec.ofNat 16 (0x8004 + x.val * 256 + y.val * 16)) ∧
    ∀ s : State, ∃ t, exec (.addR x y) s = .next t ∧
      WritesRegAndFlag x (((s.reg x).toNat + (s.reg y).toNat) % 256)
        (if (s.reg x).toNat + (s.reg y).toNat > 255 then 1 else 0) s t

/-- SUB and SUBN, 41_alu.md R129, R131: the wrapped difference, and VF is 0 iff it borrowed, written last. -/
def Obligations.SubtractionsSetNotBorrow : Prop :=
  ∀ x y : Reg,
    EncodedAs (.sub x y) (BitVec.ofNat 16 (0x8005 + x.val * 256 + y.val * 16)) ∧
    EncodedAs (.subn x y) (BitVec.ofNat 16 (0x8007 + x.val * 256 + y.val * 16)) ∧
    ∀ s : State,
      (∃ t, exec (.sub x y) s = .next t ∧
        WritesRegAndFlag x (((s.reg x).toNat + 256 - (s.reg y).toNat) % 256)
          (if (s.reg x).toNat < (s.reg y).toNat then 0 else 1) s t) ∧
      ∃ t, exec (.subn x y) s = .next t ∧
        WritesRegAndFlag x (((s.reg y).toNat + 256 - (s.reg x).toNat) % 256)
          (if (s.reg y).toNat < (s.reg x).toNat then 0 else 1) s t

/-- SHR and SHL, 41_alu.md R130, R132, R121: y is ignored, VF is the bit shifted out. With x = F the value of VF follows
SHIFT_VF_ALIAS (the model's choice, notes/assumptions/2.md). Whatever its setting, the two writes of a shift, made in
either order, give what R121 says of that order: with x = F, the flag under flag_last; under result_last 0 for SHR and
twice the old bit 7 for SHL (93_implementation_defined.md U9). -/
def Obligations.ShiftsSetTheBitShiftedOut : Prop :=
  ∀ x y : Reg,
    EncodedAs (.shr x y) (BitVec.ofNat 16 (0x8006 + x.val * 256 + y.val * 16)) ∧
    EncodedAs (.shl x y) (BitVec.ofNat 16 (0x800E + x.val * 256 + y.val * 16)) ∧
    ∀ s : State,
      (∃ t, exec (.shr x y) s = .next t ∧
        WritesRegAndFlag x ((s.reg x).toNat / 2)
          (if x = VF ∧ Config.shiftVfAlias = .resultLast then 0 else (s.reg x).toNat % 2) s t) ∧
      (∃ t, exec (.shl x y) s = .next t ∧
        WritesRegAndFlag x ((s.reg x).toNat * 2 % 256)
          (if x = VF ∧ Config.shiftVfAlias = .resultLast then (s.reg x).toNat / 128 * 2 else (s.reg x).toNat / 128)
          s t) ∧
      exec (.shr x y) s =
        .next (s.advance.setShift Config.shiftVfAlias x (fun b => b >>> 1) (lowBitFlag (s.reg x))) ∧
      exec (.shl x y) s =
        .next (s.advance.setShift Config.shiftVfAlias x (fun b => b <<< 1) (highBitFlag (s.reg x))) ∧
      ∀ order : ShiftVfAlias,
        WritesRegAndFlag x ((s.reg x).toNat / 2)
          (if x = VF ∧ order = .resultLast then 0 else (s.reg x).toNat % 2) s
          (s.advance.setShift order x (fun b => b >>> 1) (lowBitFlag (s.reg x))) ∧
        WritesRegAndFlag x ((s.reg x).toNat * 2 % 256)
          (if x = VF ∧ order = .resultLast then (s.reg x).toNat / 128 * 2 else (s.reg x).toNat / 128) s
          (s.advance.setShift order x (fun b => b <<< 1) (highBitFlag (s.reg x)))

/-- RND, 41_alu.md R133, R134: the draw of the step, masked; any byte the host injects is the draw. The fields that carry
the draw are the model's (notes/assumptions/3.md). -/
def Obligations.RndMasksTheDraw : Prop :=
  ∀ (x : Reg) (nn : Byte), EncodedAs (.rnd x nn) (BitVec.ofNat 16 (0xC000 + x.val * 256 + nn.toNat)) ∧
    (∀ s : State, ∃ t, exec (.rnd x nn) s = .next t ∧ t.pc = s.pc + 2 ∧
      (t.reg x).toNat = s.draw.toNat &&& nn.toNat ∧ SameRegsBut [x] s t ∧ UnchangedBut [.regs, .pc, .draws] s t) ∧
    ∀ (s : State) (r : Byte), s.fetch = .instr (.rnd x nn) →
      ∃ t, (Event.step r).apply s = .next t ∧ t.pc = s.pc + 2 ∧ (t.reg x).toNat = r.toNat &&& nn.toNat ∧
        SameRegsBut [x] s t ∧ UnchangedBut [.regs, .pc, .draws] s t ∧ t.draws = s.draws

/-! ## Display -/

/-- CLS, 42_display.md R150: every cell off, VF not written. -/
def Obligations.ClsTurnsEveryCellOff : Prop :=
  EncodedAs .cls 0x00E0 ∧ ∀ s, ∃ t, exec .cls s = .next t ∧ (∀ i, FrameBuffer.cell t.fb i = false) ∧
    t.pc = s.pc + 2 ∧ UnchangedBut [.fb, .pc] s t

/-- DRW, 42_display.md R151 to R153: exactly the cells under a 1 bit are toggled, each coordinate wrapping, and VF is 1
iff one of them was on; with a row out of memory, a fault and no cell toggled. Wrapping every pixel (R152: "the spec's
reading") and all-or-nothing (R151: "this spec's refinement") are choices the spec marks as its own. -/
def Obligations.DrwXorsTheSpriteOrFaults : Prop :=
  ∀ (x y : Reg) (z : Nat), z < 16 →
    EncodedAs (.drw x y z) (BitVec.ofNat 16 (0xD000 + x.val * 256 + y.val * 16 + z)) ∧
    (∀ s : State, (z = 0 ∨ s.I.toNat + z - 1 < 4096) →
      ∃ t, exec (.drw x y z) s = .next t ∧ t.pc = s.pc + 2 ∧
        (∀ i, UnderSprite s x y z i → FrameBuffer.cell t.fb i = !FrameBuffer.cell s.fb i) ∧
        (∀ i, ¬ UnderSprite s x y z i → FrameBuffer.cell t.fb i = FrameBuffer.cell s.fb i) ∧
        ((∃ i, UnderSprite s x y z i ∧ FrameBuffer.cell s.fb i = true) → t.reg VF = 1) ∧
        ((∀ i, UnderSprite s x y z i → FrameBuffer.cell s.fb i = false) → t.reg VF = 0) ∧
        SameRegsBut [VF] s t ∧ UnchangedBut [.regs, .fb, .pc] s t) ∧
    ∀ s : State, 1 ≤ z → 4096 ≤ s.I.toNat + z - 1 →
      ∃ t, exec (.drw x y z) s = .next t ∧
        Latched .memOutOfBounds (BitVec.ofNat 16 (0xD000 + x.val * 256 + y.val * 16 + z)) s t

/-- No cell is touched twice in one DRW (42_display.md R154). -/
def Obligations.DrwTouchesNoCellTwice : Prop :=
  ∀ (s : State) (x y : Reg) (z : Nat), z < 16 → (s.drawCells x y z).Nodup

/-- Drawing the same sprite twice restores the framebuffer, and VF after the second is 1 iff the first turned a cell on
(42_display.md R155). -/
def Obligations.DrawingTwiceRestoresTheFramebuffer : Prop :=
  ∀ (x y : Reg) (z : Nat) (s : State), z < 16 → (z = 0 ∨ s.I.toNat + z - 1 < 4096) → x ≠ VF → y ≠ VF →
    ∃ t u, exec (.drw x y z) s = .next t ∧ exec (.drw x y z) t = .next u ∧
      (∀ i, FrameBuffer.cell u.fb i = FrameBuffer.cell s.fb i) ∧
      (u.reg VF = 1 ↔ ∃ i, UnderSprite s x y z i ∧ FrameBuffer.cell s.fb i = false) ∧
      (u.reg VF = 0 ↔ ∀ i, UnderSprite s x y z i → FrameBuffer.cell s.fb i = true)

/-! ## Index and memory -/

/-- LD I, ADD I, LD F, 43_index_memory.md R170 to R172: ADD wraps at 16 bits and writes no flag, LD F masks nothing. That
ADD I writes no VF (R171, D9) and that LD F masks nothing for Vx above 15 (R172, D13) are decisions the spec marks as its
own (notes/assumptions/17.md). -/
def Obligations.IndexInstructionsWriteOnlyTheIndex : Prop :=
  (∀ nnn : Addr12, EncodedAs (.ldIdx nnn) (BitVec.ofNat 16 (0xA000 + nnn.toNat)) ∧
    ∀ s : State, ∃ t, exec (.ldIdx nnn) s = .next t ∧ t.I.toNat = nnn.toNat ∧ t.pc = s.pc + 2 ∧
      UnchangedBut [.index, .pc] s t) ∧
  ∀ x : Reg,
    EncodedAs (.addIdx x) (BitVec.ofNat 16 (0xF01E + x.val * 256)) ∧
    EncodedAs (.ldF x) (BitVec.ofNat 16 (0xF029 + x.val * 256)) ∧
    ∀ s : State,
      (∃ t, exec (.addIdx x) s = .next t ∧ t.I.toNat = (s.I.toNat + (s.reg x).toNat) % 65536 ∧ t.pc = s.pc + 2 ∧
        UnchangedBut [.index, .pc] s t) ∧
      ∃ t, exec (.ldF x) s = .next t ∧ t.I.toNat = (s.reg x).toNat * 5 ∧ t.pc = s.pc + 2 ∧
        UnchangedBut [.index, .pc] s t

/-- LD B, 43_index_memory.md R176: three decimal digits at `I`, or a fault with nothing written. -/
def Obligations.BcdStoresThreeDigits : Prop :=
  ∀ x : Reg, EncodedAs (.ldB x) (BitVec.ofNat 16 (0xF033 + x.val * 256)) ∧
    (∀ s : State, s.I.toNat + 2 < 4096 →
      ∃ t, exec (.ldB x) s = .next t ∧ (t.mem.get s.I.toNat).toNat = (s.reg x).toNat / 100 ∧
        (t.mem.get (s.I.toNat + 1)).toNat = (s.reg x).toNat / 10 % 10 ∧
        (t.mem.get (s.I.toNat + 2)).toNat = (s.reg x).toNat % 10 ∧ SameMemOutside s.I.toNat 3 s t ∧
        t.pc = s.pc + 2 ∧ UnchangedBut [.mem, .pc] s t) ∧
    ∀ s : State, 4096 ≤ s.I.toNat + 2 →
      ∃ t, exec (.ldB x) s = .next t ∧ Latched .memOutOfBounds (BitVec.ofNat 16 (0xF033 + x.val * 256)) s t

/-- LD [I], Vx, 43_index_memory.md R177: V0 to Vx at `I` upward, `I` unchanged, or a fault with nothing written. That `I`
is unchanged is a decision the spec marks as its own (R177: "the document lists no change to it", D9;
notes/assumptions/17.md). -/
def Obligations.RegisterBlockStore : Prop :=
  ∀ x : Reg, EncodedAs (.stRegs x) (BitVec.ofNat 16 (0xF055 + x.val * 256)) ∧
    (∀ s : State, s.I.toNat + x.val < 4096 →
      ∃ t, exec (.stRegs x) s = .next t ∧ (∀ r : Reg, r.val ≤ x.val → t.mem.get (s.I.toNat + r.val) = s.reg r) ∧
        SameMemOutside s.I.toNat (x.val + 1) s t ∧ t.pc = s.pc + 2 ∧ UnchangedBut [.mem, .pc] s t) ∧
    ∀ s : State, 4096 ≤ s.I.toNat + x.val →
      ∃ t, exec (.stRegs x) s = .next t ∧ Latched .memOutOfBounds (BitVec.ofNat 16 (0xF055 + x.val * 256)) s t

/-- LD Vx, [I], 43_index_memory.md R178: V0 to Vx from `I` upward, `I` and the registers above x unchanged, or a fault
with no register changed. That `I` is unchanged is a decision the spec marks as its own (R178, D9;
notes/assumptions/17.md). -/
def Obligations.RegisterBlockLoad : Prop :=
  ∀ x : Reg, EncodedAs (.ldRegs x) (BitVec.ofNat 16 (0xF065 + x.val * 256)) ∧
    (∀ s : State, s.I.toNat + x.val < 4096 →
      ∃ t, exec (.ldRegs x) s = .next t ∧ (∀ r : Reg, r.val ≤ x.val → t.reg r = s.mem.get (s.I.toNat + r.val)) ∧
        (∀ r : Reg, x.val < r.val → t.reg r = s.reg r) ∧ t.pc = s.pc + 2 ∧ UnchangedBut [.regs, .pc] s t) ∧
    ∀ s : State, 4096 ≤ s.I.toNat + x.val →
      ∃ t, exec (.ldRegs x) s = .next t ∧ Latched .memOutOfBounds (BitVec.ofNat 16 (0xF065 + x.val * 256)) s t

/-- Registers stored by LD [I], Vx are fetched at once: two neighbouring stored bytes are the opcode at their address. No
cache stands between, by 20_memory.md R50: "this spec decides there are none" (D21; notes/assumptions/17.md). -/
def Obligations.StoredRegistersAreFetchedNext : Prop :=
  ∀ (x r q : Reg) (s : State), s.I.toNat + x.val < 4096 → q.val = r.val + 1 → q.val ≤ x.val →
    ∃ t, exec (.stRegs x) s = .next t ∧ t.mem.fetchWord (s.I.toNat + r.val) = some (bytesToWord (s.reg r) (s.reg q))

/-! ## Keys and timers -/

/-- SKP and SKNP, 44_keys_timers.md R190, R191: skip on the flag of key Vx, or a fault on a key index above 15, which is
the spec's choice (R190: "this spec faults rather than mask the index"). -/
def Obligations.KeySkipsTestTheKeyOrFault : Prop :=
  ∀ x : Reg,
    EncodedAs (.skp x) (BitVec.ofNat 16 (0xE09E + x.val * 256)) ∧
    EncodedAs (.sknp x) (BitVec.ofNat 16 (0xE0A1 + x.val * 256)) ∧
    (∀ (s : State) (k : Fin 16), (s.reg x).toNat = k.val →
      (∃ t, exec (.skp x) s = .next t ∧ t.pc = (if s.keys[k] = true then s.pc + 4 else s.pc + 2) ∧
        UnchangedBut [.pc] s t) ∧
      ∃ t, exec (.sknp x) s = .next t ∧ t.pc = (if s.keys[k] = true then s.pc + 2 else s.pc + 4) ∧
        UnchangedBut [.pc] s t) ∧
    ∀ s : State, 15 < (s.reg x).toNat →
      (∃ t, exec (.skp x) s = .next t ∧ Latched .keyIndexOutOfRange (BitVec.ofNat 16 (0xE09E + x.val * 256)) s t) ∧
      ∃ t, exec (.sknp x) s = .next t ∧ Latched .keyIndexOutOfRange (BitVec.ofNat 16 (0xE0A1 + x.val * 256)) s t

/-- LD Vx, K, 44_keys_timers.md R192: the identity while no key is pressed, else the lowest pressed key. -/
def Obligations.KeyWaitTakesTheLowestPressedKey : Prop :=
  ∀ x : Reg, EncodedAs (.ldVxK x) (BitVec.ofNat 16 (0xF00A + x.val * 256)) ∧
    (∀ s : State, (∀ k : Fin 16, s.keys[k] = false) → exec (.ldVxK x) s = .next s) ∧
    ∀ (s : State) (k : Fin 16), s.keys[k] = true → (∀ j : Fin 16, j < k → s.keys[j] = false) →
      ∃ t, exec (.ldVxK x) s = .next t ∧ WritesReg x k.val s t

/-- A waiting core steps to itself and keeps waiting through ticks; the press of a key ends the wait at the next step
(44_keys_timers.md R196). -/
def Obligations.KeyWaitEndsOnlyByTheHost : Prop :=
  ∀ (s : State) (x : Reg) (k : Fin 16) (r : Byte), s.fetch = .instr (.ldVxK x) →
    (∀ j : Fin 16, s.keys[j] = false) →
    step s = .next s ∧ (∃ u, Event.tickTimers.apply s = .next u ∧ u.Waiting) ∧
    ∃ t, runEvents [.setKey k.val true, .step r] s = .next t ∧ (t.reg x).toNat = k.val ∧ t.pc = s.pc + 2

/-- LD Vx, DT, LD DT, Vx and LD ST, Vx, 44_keys_timers.md R193 to R195; after LD ST the next tick gives `tone_stop` exactly
when the value written is 1, whatever ST was. -/
def Obligations.TimerAccess : Prop :=
  ∀ x : Reg,
    EncodedAs (.ldVxDt x) (BitVec.ofNat 16 (0xF007 + x.val * 256)) ∧
    EncodedAs (.ldDtVx x) (BitVec.ofNat 16 (0xF015 + x.val * 256)) ∧
    EncodedAs (.ldStVx x) (BitVec.ofNat 16 (0xF018 + x.val * 256)) ∧
    ∀ s : State,
      (∃ t, exec (.ldVxDt x) s = .next t ∧ WritesReg x s.DT.toNat s t) ∧
      (∃ t, exec (.ldDtVx x) s = .next t ∧ t.DT = s.reg x ∧ t.pc = s.pc + 2 ∧ UnchangedBut [.dt, .pc] s t) ∧
      ∃ t, exec (.ldStVx x) s = .next t ∧ t.ST = s.reg x ∧ t.pc = s.pc + 2 ∧ UnchangedBut [.st, .pc] s t ∧
        (s.fault.cause = .noFault → (t.toneStop = true ↔ (s.reg x).toNat = 1))

/-! ## Events of the host -/

/-- `tick_timers`, 50_interfaces.md R215, with no fault latched: both timers down by one with floor 0 (subtraction on
naturals), nothing else, and `tone_stop` exactly when ST goes from 1 to 0. -/
def Obligations.TickDecrementsBothTimers : Prop :=
  ∀ s : State, s.fault.cause = .noFault →
    ∃ t, Event.tickTimers.apply s = .next t ∧ t.DT.toNat = s.DT.toNat - 1 ∧ t.ST.toNat = s.ST.toNat - 1 ∧
      UnchangedBut [.dt, .st] s t ∧ (s.toneStop = true ↔ s.ST.toNat = 1)

/-- `load_program`, 50_interfaces.md R216, R221: with no fault latched, an image of at most 3584 bytes is accepted and its
bytes stand verbatim at 0x200, nothing else changed; a longer one is a rejected call. That it counts as rejected in every
state, a faulted one included, is the model's reading (notes/assumptions/19.md). -/
def Obligations.LoadProgramCopiesTheImage : Prop :=
  (∀ (s : State) (bytes : List Byte), s.fault.cause = .noFault → bytes.length ≤ 3584 →
    (Event.loadProgram bytes).rejected = false ∧
    ∃ t, (Event.loadProgram bytes).apply s = .next t ∧
      (∀ k (h : k < bytes.length), t.mem.get (0x200 + k) = bytes[k]) ∧
      SameMemOutside 0x200 bytes.length s t ∧ UnchangedBut [.mem] s t) ∧
  ∀ (s : State) (bytes : List Byte), 3584 < bytes.length →
    (Event.loadProgram bytes).apply s = .next s ∧ (Event.loadProgram bytes).rejected = true

/-- `set_key`, 50_interfaces.md R217, R221: with no fault latched, an index 0 to 15 is accepted and sets one flag and
nothing else; a higher one is a rejected call. That it counts as rejected in every state, a faulted one included, is the
model's reading (notes/assumptions/19.md). -/
def Obligations.SetKeySetsOneFlag : Prop :=
  (∀ (s : State) (k : Fin 16) (pressed : Bool), s.fault.cause = .noFault →
    (Event.setKey k.val pressed).rejected = false ∧
    ∃ t, (Event.setKey k.val pressed).apply s = .next t ∧ t.keys[k] = pressed ∧
      (∀ j : Fin 16, j ≠ k → t.keys[j] = s.keys[j]) ∧ UnchangedBut [.keys] s t) ∧
  ∀ (s : State) (index : Nat) (pressed : Bool), 16 ≤ index →
    (Event.setKey index pressed).apply s = .next s ∧ (Event.setKey index pressed).rejected = true

/-- `reset` gives the state of 10_state.md R25 whatever the state was, and is idempotent (50_interfaces.md R218,
70_reset_and_hazards.md R270, R271). FONT stands as the named parameter. The rows `I` and `sp` are readings the spec marks
as its own ("read as including I (D20)"; notes/assumptions/17.md), and the fault record is its own addition (D3). -/
def Obligations.ResetRestoresTheResetState : Prop :=
  ∀ s : State, ∃ t, Event.reset.apply s = .next t ∧ t.pc = 0x0200 ∧
    (∀ a, a < 80 → t.mem.get a = Config.font.getD a 0) ∧ (∀ a, 80 ≤ a → a < 4096 → t.mem.get a = 0) ∧
    (∀ r, t.reg r = 0) ∧ t.I = 0 ∧ (∀ j : Fin 16, t.stack[j] = 0) ∧ t.sp = 0 ∧ (∀ k : Fin 16, t.keys[k] = false) ∧
    t.DT = 0 ∧ t.ST = 0 ∧ (∀ i, FrameBuffer.cell t.fb i = false) ∧
    t.fault = { cause := .noFault, opcode := 0, pc := 0 } ∧ Event.reset.apply t = .next t

/-- The machine starts in the state of 10_state.md R25. FONT stands as the named parameter. The rows `I` and `sp` are
readings the spec marks as its own ("read as including I (D20)"; notes/assumptions/17.md), and the fault record is its own
addition (D3). -/
def Obligations.MachineStartsInTheResetState : Prop :=
  State.reset.pc = 0x0200 ∧
    (∀ a, a < 80 → State.reset.mem.get a = Config.font.getD a 0) ∧
    (∀ a, 80 ≤ a → a < 4096 → State.reset.mem.get a = 0) ∧
    (∀ r, State.reset.reg r = 0) ∧ State.reset.I = 0 ∧ (∀ j : Fin 16, State.reset.stack[j] = 0) ∧ State.reset.sp = 0 ∧
    (∀ k : Fin 16, State.reset.keys[k] = false) ∧ State.reset.DT = 0 ∧ State.reset.ST = 0 ∧
    (∀ i, FrameBuffer.cell State.reset.fb i = false) ∧
    State.reset.fault = { cause := .noFault, opcode := 0, pc := 0 }

/-- A step that coincides with a tick sees the tick, by the order that 50_interfaces.md R212 calls "the spec's choice":
LD Vx, DT reads the decremented timer and LD DT, Vx overwrites it. -/
def Obligations.CoincidentStepSeesTheTick : Prop :=
  ∀ (s : State) (x : Reg) (r : Byte),
    (s.fetch = .instr (.ldVxDt x) →
      ∃ t, runEvents (requestEvents { reset := false, load := none, key := none, tick := true, step := some r }) s =
        .next t ∧ (t.reg x).toNat = s.DT.toNat - 1) ∧
    (s.fetch = .instr (.ldDtVx x) →
      ∃ t, runEvents (requestEvents { reset := false, load := none, key := none, tick := true, step := some r }) s =
        .next t ∧ t.DT = s.reg x)

/-- A load strobe with an offset below 3584 stores its byte at 0x200 plus the offset and changes nothing else; at any other
offset it changes nothing, nor with a fault latched (60_exceptions.md R245: "so this is the spec's choice"); and a burst
of them over the offsets 0 to n - 1 is `load_program` of the n bytes. The ports are the spec's own, "informative for the
model" (50_interfaces.md R223), and that one strobe stores one byte at once is the model's choice
(notes/assumptions/13.md). -/
def Obligations.LoadBurstIsLoadProgram : Prop :=
  (∀ (s : State) (off : Addr12) (b : Byte), s.fault.cause = .noFault → off.toNat < 3584 →
    (s.loadByte off b).mem.get (0x200 + off.toNat) = b ∧
    SameMemOutside (0x200 + off.toNat) 1 s (s.loadByte off b) ∧ UnchangedBut [.mem] s (s.loadByte off b)) ∧
  (∀ (s : State) (off : Addr12) (b : Byte), s.fault.cause ≠ .noFault ∨ 3584 ≤ off.toNat → s.loadByte off b = s) ∧
  ∀ (s : State) (bytes : List Byte), bytes.length ≤ 3584 →
    bytes.zipIdx.foldl (fun u c => u.loadByte (BitVec.ofNat 12 c.2) c.1) s = s.loadProgram bytes

/-- A rising edge performs the coincident requests of its ports in their fixed order: reset, then the byte of a load
strobe, then set_key, then tick_timers, then step; and its `tone_stop` output is the result of the tick in the state that
tick finds (50_interfaces.md R212, R215, R223). The order is what R212 calls "the spec's choice"; that every event
completes within its edge is the model's (notes/assumptions/13.md). -/
def Obligations.ClockEdgePerformsItsRequestsInOrder : Prop :=
  ∀ (p : InPorts) (s : State), ∃ t u : State,
    runEvents (requestEvents { reset := p.rst, load := none, key := none, tick := false, step := none }) s = .next t ∧
    runEvents (requestEvents
      { reset := false, load := none, key := if p.keyWe then some (p.keyIdx.toNat, p.keyVal) else none,
        tick := false, step := none }) (if p.ldWe then t.loadByte p.ldOff p.ldData else t) = .next u ∧
    clockEdge p s = runEvents (requestEvents
      { reset := false, load := none, key := none, tick := p.tickReq,
        step := if p.stepReq then some p.rnd else none }) u ∧
    ∀ v, (outputs p s v).toneStop = (p.tickReq && u.toneStop)

/-- Bytes stored by LD B or by `load_program` are fetched at once, as those of LD [I], Vx are: two neighbouring stored
bytes are the opcode at their address. No cache stands between, by 20_memory.md R50: "this spec decides there are none"
(D21; notes/assumptions/17.md). -/
def Obligations.DigitsAndImagesAreFetchedNext : Prop :=
  (∀ (x : Reg) (s : State), s.I.toNat + 2 < 4096 →
    ∃ t h m l, exec (.ldB x) s = .next t ∧ t.mem.fetchWord s.I.toNat = some (bytesToWord h m) ∧
      t.mem.fetchWord (s.I.toNat + 1) = some (bytesToWord m l) ∧ h.toNat = (s.reg x).toNat / 100 ∧
      m.toNat = (s.reg x).toNat / 10 % 10 ∧ l.toNat = (s.reg x).toNat % 10) ∧
  ∀ (s : State) (bytes : List Byte) (k : Nat) (h : k + 1 < bytes.length), s.fault.cause = .noFault →
    bytes.length ≤ 3584 →
    ∃ t, (Event.loadProgram bytes).apply s = .next t ∧
      t.mem.fetchWord (0x200 + k) = some (bytesToWord bytes[k] bytes[k + 1])
end

