-- ==== Sys2Proof/Laws/Encoding.lean ====
section
/-! SUPPORT. The words of the formats and the fields of a word, as numbers; and each field of an assembled word is the
field it was assembled from (30_encoding.md R61, R62). -/

namespace Sys2Proof

theorem toNat_append {m n : Nat} (a : BitVec m) (b : BitVec n) : (a ++ b).toNat = a.toNat * 2 ^ n + b.toNat := by
  rw [BitVec.toNat_append, Nat.shiftLeft_eq, Nat.mul_comm, ← Nat.two_pow_add_eq_or_of_lt b.isLt]

theorem regBits_toNat (x : Reg) : (regBits x).toNat = x.val := by simp [regBits]

theorem formA_toNat (op : Nibble) (nnn : Addr12) : (formA op nnn).toNat = op.toNat * 4096 + nnn.toNat :=
  toNat_append op nnn

theorem formXB_toNat (op : Nibble) (x : Reg) (nn : Byte) :
    (formXB op x nn).toNat = op.toNat * 4096 + x.val * 256 + nn.toNat := by
  have h : (formXB op x nn).toNat = (op.toNat * 2 ^ 4 + (regBits x).toNat) * 2 ^ 8 + nn.toNat := by
    rw [← toNat_append, ← toNat_append]; rfl
  rw [h, regBits_toNat]
  omega

theorem formXY_toNat (op : Nibble) (x y : Reg) (n : Nibble) :
    (formXY op x y n).toNat = op.toNat * 4096 + x.val * 256 + y.val * 16 + n.toNat := by
  have h : (formXY op x y n).toNat =
      ((op.toNat * 2 ^ 4 + (regBits x).toNat) * 2 ^ 4 + (regBits y).toNat) * 2 ^ 4 + n.toNat := by
    rw [← toNat_append, ← toNat_append, ← toNat_append]; rfl
  rw [h, regBits_toNat, regBits_toNat]
  omega

theorem nibble1_toNat (w : Word) : (nibble1 w).toNat = w.toNat / 4096 := by
  have := w.isLt
  simp only [nibble1, BitVec.extractLsb'_toNat, Nat.shiftRight_eq_div_pow]
  omega

theorem nibble4_toNat (w : Word) : (nibble4 w).toNat = w.toNat % 16 := by
  simp [nibble4, BitVec.extractLsb'_toNat]

theorem fieldX_val (w : Word) : (fieldX w).val = w.toNat / 256 % 16 := by
  simp only [fieldX, BitVec.val_toFin, BitVec.extractLsb'_toNat, Nat.shiftRight_eq_div_pow]

theorem fieldY_val (w : Word) : (fieldY w).val = w.toNat / 16 % 16 := by
  simp only [fieldY, BitVec.val_toFin, BitVec.extractLsb'_toNat, Nat.shiftRight_eq_div_pow]

theorem fieldZ_eq (w : Word) : fieldZ w = w.toNat % 16 := nibble4_toNat w

theorem fieldNN_toNat (w : Word) : (fieldNN w).toNat = w.toNat % 256 := by
  simp [fieldNN, BitVec.extractLsb'_toNat]

theorem fieldNNN_toNat (w : Word) : (fieldNNN w).toNat = w.toNat % 4096 := by
  simp [fieldNNN, BitVec.extractLsb'_toNat]

/-- The bytes of a word make the word again. -/
theorem bytesToWord_high_low (w : Word) : bytesToWord (highByte w) (lowByte w) = w := by
  apply BitVec.eq_of_toNat_eq
  have := w.isLt
  rw [bytesToWord, toNat_append]
  simp only [highByte, lowByte, BitVec.extractLsb'_toNat, Nat.shiftRight_eq_div_pow]
  omega

/-! The fields of an assembled word. -/

theorem nibble1_formA (op : Nibble) (nnn : Addr12) : nibble1 (formA op nnn) = op := by
  apply BitVec.eq_of_toNat_eq
  have := nnn.isLt
  rw [nibble1_toNat, formA_toNat]
  omega

theorem fieldNNN_formA (op : Nibble) (nnn : Addr12) : fieldNNN (formA op nnn) = nnn := by
  apply BitVec.eq_of_toNat_eq
  have := nnn.isLt
  rw [fieldNNN_toNat, formA_toNat]
  omega

theorem nibble1_formXB (op : Nibble) (x : Reg) (nn : Byte) : nibble1 (formXB op x nn) = op := by
  apply BitVec.eq_of_toNat_eq
  have := nn.isLt
  rw [nibble1_toNat, formXB_toNat]
  omega

theorem fieldX_formXB (op : Nibble) (x : Reg) (nn : Byte) : fieldX (formXB op x nn) = x := by
  apply Fin.ext
  have := nn.isLt
  rw [fieldX_val, formXB_toNat]
  omega

theorem fieldNN_formXB (op : Nibble) (x : Reg) (nn : Byte) : fieldNN (formXB op x nn) = nn := by
  apply BitVec.eq_of_toNat_eq
  have := nn.isLt
  rw [fieldNN_toNat, formXB_toNat]
  omega

theorem nibble1_formXY (op : Nibble) (x y : Reg) (n : Nibble) : nibble1 (formXY op x y n) = op := by
  apply BitVec.eq_of_toNat_eq
  have := n.isLt
  rw [nibble1_toNat, formXY_toNat]
  omega

theorem fieldX_formXY (op : Nibble) (x y : Reg) (n : Nibble) : fieldX (formXY op x y n) = x := by
  apply Fin.ext
  have := n.isLt
  rw [fieldX_val, formXY_toNat]
  omega

theorem fieldY_formXY (op : Nibble) (x y : Reg) (n : Nibble) : fieldY (formXY op x y n) = y := by
  apply Fin.ext
  have := n.isLt
  rw [fieldY_val, formXY_toNat]
  omega

theorem nibble4_formXY (op : Nibble) (x y : Reg) (n : Nibble) : nibble4 (formXY op x y n) = n := by
  apply BitVec.eq_of_toNat_eq
  have := n.isLt
  rw [nibble4_toNat, formXY_toNat]
  omega

/-! Masking an assembled word with a row's mask leaves the fixed fields (30_encoding.md R62). -/

theorem and_formA (a c : Nibble) (b d : Addr12) : formA a b &&& formA c d = formA (a &&& c) (b &&& d) :=
  BitVec.and_append

theorem and_bytes (a b c d : Nibble) (e f : Byte) :
    ((a ++ b ++ e : Word) &&& (c ++ d ++ f : Word)) = (a &&& c) ++ (b &&& d) ++ (e &&& f) := by
  rw [BitVec.and_append, BitVec.and_append]

theorem and_nibbles (a b c d e f g h : Nibble) :
    ((a ++ b ++ c ++ d : Word) &&& (e ++ f ++ g ++ h : Word)) = (a &&& e) ++ (b &&& f) ++ (c &&& g) ++ (d &&& h) := by
  rw [BitVec.and_append, BitVec.and_append, BitVec.and_append]

theorem nibble_and_ones (a : Nibble) : a &&& 0xF#4 = a := BitVec.and_allOnes

theorem mask_formA (op : Nibble) (nnn : Addr12) : formA op nnn &&& 0xF000 = formA op 0 := by
  have h := and_formA op 0xF#4 nnn 0#12
  rwa [BitVec.and_zero, nibble_and_ones] at h

theorem mask_formXB (op : Nibble) (x : Reg) (nn : Byte) : formXB op x nn &&& 0xF000 = formXB op 0 0 := by
  have h := and_bytes op (regBits x) 0xF#4 0#4 nn 0#8
  rwa [BitVec.and_zero, BitVec.and_zero, nibble_and_ones] at h

theorem mask_formXS (op : Nibble) (x : Reg) (nn : Byte) : formXB op x nn &&& 0xF0FF = formXB op 0 nn := by
  have h := and_bytes op (regBits x) 0xF#4 0#4 nn 0xFF#8
  rwa [BitVec.and_zero, nibble_and_ones, show nn &&& 0xFF#8 = nn from BitVec.and_allOnes] at h

theorem mask_formXY (op : Nibble) (x y : Reg) (n : Nibble) : formXY op x y n &&& 0xF00F = formXY op 0 0 n := by
  have h := and_nibbles op (regBits x) (regBits y) n 0xF#4 0#4 0#4 0xF#4
  rwa [BitVec.and_zero, BitVec.and_zero, nibble_and_ones, nibble_and_ones] at h

theorem mask_formXYZ (op : Nibble) (x y : Reg) (n : Nibble) : formXY op x y n &&& 0xF000 = formXY op 0 0 0 := by
  have h := and_nibbles op (regBits x) (regBits y) n 0xF#4 0#4 0#4 0#4
  rwa [BitVec.and_zero, BitVec.and_zero, BitVec.and_zero, nibble_and_ones] at h

end Sys2Proof
end

