-- ==== Sys2Proof/Laws/Memory.lean ====
section
/-! SUPPORT. The laws of memory: a read after a write, and that every memory operation keeps the canonical form. The
read laws hold for every list, canonical or not. -/

namespace Sys2Proof.Machine

@[simp] theorem Memory.get_nil (a : Nat) : Memory.get [] a = Memory.unlisted a := rfl

theorem Memory.get_cons (c : Host.Cell) (m : Memory) (a : Nat) :
    Memory.get (c :: m) a = if c.1 = a then c.2 else Memory.get m a := rfl

theorem Memory.get_erase (m : Memory) (a b : Nat) :
    (m.erase a).get b = if b = a then Memory.unlisted a else m.get b := by
  induction m with
  | nil => simp only [Memory.erase, List.filter_nil, Memory.get_nil]; split <;> simp_all
  | cons c m ih =>
    simp only [Memory.erase, List.filter_cons] at ih ⊢
    by_cases hc : c.1 = a
    · simp only [hc, bne_self_eq_false, Bool.false_eq_true, if_false, ih, Memory.get_cons]
      by_cases hb : b = a
      · simp [hb]
      · simp [hb, Ne.symm hb]
    · simp only [bne_iff_ne, ne_eq, hc, not_false_eq_true, if_true, Memory.get_cons, ih]
      by_cases hb : c.1 = b
      · subst hb; simp [hc]
      · simp [hb]

theorem Memory.get_insert (m : Memory) (a b : Nat) (v : Byte) (h : ∀ c ∈ m, c.1 ≠ a) :
    (m.insert a v).get b = if b = a then v else m.get b := by
  induction m with
  | nil => simp only [Memory.insert, Memory.get_cons, eq_comm]
  | cons c m ih =>
    have hc : c.1 ≠ a := h c (by simp)
    have ih := ih fun d hd => h d (by simp [hd])
    simp only [Memory.insert]
    split
    · simp only [Memory.get_cons, eq_comm]
    · simp only [Memory.get_cons, ih]
      by_cases hb : c.1 = b
      · subst hb; simp [hc]
      · simp [hb]

theorem Memory.erase_ne (m : Memory) (a : Nat) : ∀ c ∈ m.erase a, c.1 ≠ a := by
  intro c hc
  simpa using (List.mem_filter.1 hc).2

/-- A read after a write: the byte written at its address, the old byte anywhere else. -/
@[simp] theorem Memory.get_put (m : Memory) (a b : Nat) (v : Byte) :
    (m.put a v).get b = if b = a then v else m.get b := by
  unfold Memory.put
  split
  · next h => rw [Memory.get_erase, h]
  · rw [Memory.get_insert _ _ _ _ (Memory.erase_ne m a), Memory.get_erase]
    split <;> simp_all

/-- A read after a store of several bytes. -/
theorem Memory.get_putAll (m : Memory) (a b : Nat) (bs : List Byte) :
    (m.putAll a bs).get b = if a ≤ b ∧ b < a + bs.length then bs.getD (b - a) 0 else m.get b := by
  induction bs generalizing m a with
  | nil =>
    rw [if_neg (by simp only [List.length_nil]; omega)]
    rfl
  | cons v bs ih =>
    rw [Memory.putAll, ih, Memory.get_put]
    by_cases hb : b = a
    · subst hb
      rw [if_neg (by omega), if_pos rfl, if_pos (by simp)]
      simp
    · rw [if_neg hb]
      by_cases hin : a + 1 ≤ b ∧ b < a + 1 + bs.length
      · rw [if_pos hin, if_pos (by simp only [List.length_cons]; omega)]
        obtain ⟨k, rfl⟩ : ∃ k, b = a + 1 + k := ⟨b - (a + 1), by omega⟩
        rw [show a + 1 + k - (a + 1) = k by omega, show a + 1 + k - a = k + 1 by omega]
        rfl
      · rw [if_neg hin, if_neg (by simp only [List.length_cons]; omega)]

theorem Memory.wf_cons (c : Host.Cell) (m : Memory) :
    Memory.wf (c :: m) = true ↔
      c.1 < Config.memSize ∧ c.2 ≠ Memory.unlisted c.1 ∧ (∀ d ∈ m, c.1 < d.1) ∧ m.wf = true := by
  simp [Memory.wf, and_assoc]

theorem Memory.wf_erase (m : Memory) (a : Nat) (h : m.wf = true) : (m.erase a).wf = true := by
  induction m with
  | nil => rfl
  | cons c m ih =>
    rw [Memory.wf_cons] at h
    obtain ⟨h1, h2, h3, h4⟩ := h
    simp only [Memory.erase, List.filter_cons] at ih ⊢
    split
    · exact (Memory.wf_cons _ _).2 ⟨h1, h2, fun d hd => h3 d (List.mem_filter.1 hd).1, ih h4⟩
    · exact ih h4

theorem Memory.mem_insert (m : Memory) (a : Nat) (v : Byte) (c : Host.Cell) :
    c ∈ m.insert a v → c = (a, v) ∨ c ∈ m := by
  induction m with
  | nil => simp [Memory.insert]
  | cons d m ih =>
    simp only [Memory.insert]
    split
    · simp
    · intro hc
      rcases List.mem_cons.1 hc with rfl | hc
      · simp
      · rcases ih hc with h | h <;> simp [h]

theorem Memory.wf_insert (m : Memory) (a : Nat) (v : Byte) (h : m.wf = true) (ha : a < Config.memSize)
    (hv : v ≠ Memory.unlisted a) (hne : ∀ c ∈ m, c.1 ≠ a) : (m.insert a v).wf = true := by
  induction m with
  | nil => exact (Memory.wf_cons _ _).2 ⟨ha, hv, by simp, rfl⟩
  | cons c m ih =>
    have hc : c.1 ≠ a := hne c (by simp)
    have h' := (Memory.wf_cons _ _).1 h
    simp only [Memory.insert]
    split
    · next hlt =>
      refine (Memory.wf_cons _ _).2 ⟨ha, hv, fun d hd => ?_, h⟩
      rcases List.mem_cons.1 hd with rfl | hd
      · exact hlt
      · exact Nat.lt_trans hlt (h'.2.2.1 d hd)
    · next hlt =>
      refine (Memory.wf_cons _ _).2 ⟨h'.1, h'.2.1, fun d hd => ?_, ih h'.2.2.2 fun d hd => hne d (by simp [hd])⟩
      rcases Memory.mem_insert m a v d hd with rfl | hd
      · simp only; omega
      · exact h'.2.2.1 d hd

/-- Storing a byte at an address that exists keeps the canonical form. -/
theorem Memory.wf_put (m : Memory) (a : Nat) (v : Byte) (h : m.wf = true) (ha : a < Config.memSize) :
    (m.put a v).wf = true := by
  unfold Memory.put
  split
  · exact Memory.wf_erase m a h
  · next hv => exact Memory.wf_insert _ _ _ (Memory.wf_erase m a h) ha hv (Memory.erase_ne m a)

/-- Storing bytes whose addresses all exist keeps the canonical form. -/
theorem Memory.wf_putAll (m : Memory) (a : Nat) (bs : List Byte) (h : m.wf = true)
    (ha : a + bs.length ≤ Config.memSize) : (m.putAll a bs).wf = true := by
  induction bs generalizing m a with
  | nil => exact h
  | cons v bs ih =>
    simp only [List.length_cons] at ha
    exact ih _ _ (Memory.wf_put m a v h (by omega)) (by omega)

/-- Storing a word keeps the canonical form. -/
theorem Memory.wf_putWord (m : Memory) (a : Nat) (w : Word) (h : m.wf = true) : (m.putWord a w).wf = true := by
  unfold Memory.putWord
  split
  · next ha => exact Memory.wf_putAll m a _ h (by simp only [List.length_cons, List.length_nil]; omega)
  · exact h

/-- Two canonical memories that read alike everywhere are the same list. -/
theorem Memory.get_of_lt (m : Memory) (a : Nat) (h : ∀ c ∈ m, a < c.1) : m.get a = Memory.unlisted a := by
  induction m with
  | nil => rfl
  | cons c m ih =>
    have := h c (by simp)
    rw [Memory.get_cons, if_neg (by omega), ih fun d hd => h d (by simp [hd])]

theorem Memory.ext_of_wf (m n : Memory) (hm : m.wf = true) (hn : n.wf = true) (h : ∀ a, m.get a = n.get a) : m = n := by
  induction m generalizing n with
  | nil =>
    cases n with
    | nil => rfl
    | cons d n =>
      have hd := (Memory.wf_cons _ _).1 hn
      have := h d.1
      rw [Memory.get_cons, if_pos rfl, Memory.get_nil] at this
      exact absurd this.symm hd.2.1
  | cons c m ih =>
    have hc := (Memory.wf_cons _ _).1 hm
    cases n with
    | nil =>
      have := h c.1
      rw [Memory.get_cons, if_pos rfl, Memory.get_nil] at this
      exact absurd this hc.2.1
    | cons d n =>
      have hd := (Memory.wf_cons _ _).1 hn
      rcases Nat.lt_trichotomy c.1 d.1 with hlt | heq | hgt
      · have := h c.1
        rw [Memory.get_cons, if_pos rfl, Memory.get_of_lt (d :: n) c.1 (by
          intro e he
          rcases List.mem_cons.1 he with rfl | he
          · exact hlt
          · exact Nat.lt_trans hlt (hd.2.2.1 e he))] at this
        exact absurd this hc.2.1
      · have hval := h c.1
        rw [Memory.get_cons, if_pos rfl, Memory.get_cons, if_pos heq.symm] at hval
        have hcd : c = d := Prod.ext heq hval
        subst hcd
        have hmn : m = n := by
          refine ih n hc.2.2.2 hd.2.2.2 fun a => ?_
          by_cases ha : c.1 = a
          · subst ha
            rw [Memory.get_of_lt m _ hc.2.2.1, Memory.get_of_lt n _ hd.2.2.1]
          · have := h a
            rwa [Memory.get_cons, if_neg ha, Memory.get_cons, if_neg ha] at this
        rw [hmn]
      · have := h d.1
        rw [Memory.get_cons d, if_pos rfl, Memory.get_of_lt (c :: m) d.1 (by
          intro e he
          rcases List.mem_cons.1 he with rfl | he
          · exact hgt
          · exact Nat.lt_trans hgt (hc.2.2.1 e he))] at this
        exact absurd this.symm hd.2.1

/-- The memory after reset is in canonical form: it lists nothing. -/
theorem State.reset_mem_wf : State.reset.mem.wf = true := rfl

/-- The bounds check, as arithmetic. -/
theorem spanInMem_iff (base n : Nat) : spanInMem base n = true ↔ n = 0 ∨ base + n ≤ Config.memSize := by
  simp [spanInMem]

end Sys2Proof.Machine
end

