-- ==== Sys2Proof/Laws/State.lean ====
section
/-! SUPPORT. What each update of the state does to each field, so that no proof unfolds a record update. -/

namespace Sys2Proof.Machine

/-! ### `State.setReg` -/

@[simp] theorem State.setReg_mem (s : State) (x : Reg) (b : Byte) :
    (s.setReg x b).mem = s.mem := rfl

@[simp] theorem State.setReg_V (s : State) (x : Reg) (b : Byte) :
    (s.setReg x b).V = s.V.set x b := rfl

@[simp] theorem State.setReg_I (s : State) (x : Reg) (b : Byte) :
    (s.setReg x b).I = s.I := rfl

@[simp] theorem State.setReg_pc (s : State) (x : Reg) (b : Byte) :
    (s.setReg x b).pc = s.pc := rfl

@[simp] theorem State.setReg_stack (s : State) (x : Reg) (b : Byte) :
    (s.setReg x b).stack = s.stack := rfl

@[simp] theorem State.setReg_sp (s : State) (x : Reg) (b : Byte) :
    (s.setReg x b).sp = s.sp := rfl

@[simp] theorem State.setReg_keys (s : State) (x : Reg) (b : Byte) :
    (s.setReg x b).keys = s.keys := rfl

@[simp] theorem State.setReg_fb (s : State) (x : Reg) (b : Byte) :
    (s.setReg x b).fb = s.fb := rfl

@[simp] theorem State.setReg_DT (s : State) (x : Reg) (b : Byte) :
    (s.setReg x b).DT = s.DT := rfl

@[simp] theorem State.setReg_ST (s : State) (x : Reg) (b : Byte) :
    (s.setReg x b).ST = s.ST := rfl

@[simp] theorem State.setReg_fault (s : State) (x : Reg) (b : Byte) :
    (s.setReg x b).fault = s.fault := rfl

@[simp] theorem State.setReg_draws (s : State) (x : Reg) (b : Byte) :
    (s.setReg x b).draws = s.draws := rfl

@[simp] theorem State.setReg_drawIdx (s : State) (x : Reg) (b : Byte) :
    (s.setReg x b).drawIdx = s.drawIdx := rfl

/-! ### `State.setPc` -/

@[simp] theorem State.setPc_mem (s : State) (w : Word) :
    (s.setPc w).mem = s.mem := rfl

@[simp] theorem State.setPc_V (s : State) (w : Word) :
    (s.setPc w).V = s.V := rfl

@[simp] theorem State.setPc_I (s : State) (w : Word) :
    (s.setPc w).I = s.I := rfl

@[simp] theorem State.setPc_pc (s : State) (w : Word) :
    (s.setPc w).pc = w := rfl

@[simp] theorem State.setPc_stack (s : State) (w : Word) :
    (s.setPc w).stack = s.stack := rfl

@[simp] theorem State.setPc_sp (s : State) (w : Word) :
    (s.setPc w).sp = s.sp := rfl

@[simp] theorem State.setPc_keys (s : State) (w : Word) :
    (s.setPc w).keys = s.keys := rfl

@[simp] theorem State.setPc_fb (s : State) (w : Word) :
    (s.setPc w).fb = s.fb := rfl

@[simp] theorem State.setPc_DT (s : State) (w : Word) :
    (s.setPc w).DT = s.DT := rfl

@[simp] theorem State.setPc_ST (s : State) (w : Word) :
    (s.setPc w).ST = s.ST := rfl

@[simp] theorem State.setPc_fault (s : State) (w : Word) :
    (s.setPc w).fault = s.fault := rfl

@[simp] theorem State.setPc_draws (s : State) (w : Word) :
    (s.setPc w).draws = s.draws := rfl

@[simp] theorem State.setPc_drawIdx (s : State) (w : Word) :
    (s.setPc w).drawIdx = s.drawIdx := rfl

/-! ### `State.advance` -/

@[simp] theorem State.advance_mem (s : State) :
    (s.advance).mem = s.mem := rfl

@[simp] theorem State.advance_V (s : State) :
    (s.advance).V = s.V := rfl

@[simp] theorem State.advance_I (s : State) :
    (s.advance).I = s.I := rfl

@[simp] theorem State.advance_pc (s : State) :
    (s.advance).pc = s.pc + 2 := rfl

@[simp] theorem State.advance_stack (s : State) :
    (s.advance).stack = s.stack := rfl

@[simp] theorem State.advance_sp (s : State) :
    (s.advance).sp = s.sp := rfl

@[simp] theorem State.advance_keys (s : State) :
    (s.advance).keys = s.keys := rfl

@[simp] theorem State.advance_fb (s : State) :
    (s.advance).fb = s.fb := rfl

@[simp] theorem State.advance_DT (s : State) :
    (s.advance).DT = s.DT := rfl

@[simp] theorem State.advance_ST (s : State) :
    (s.advance).ST = s.ST := rfl

@[simp] theorem State.advance_fault (s : State) :
    (s.advance).fault = s.fault := rfl

@[simp] theorem State.advance_draws (s : State) :
    (s.advance).draws = s.draws := rfl

@[simp] theorem State.advance_drawIdx (s : State) :
    (s.advance).drawIdx = s.drawIdx := rfl

/-! ### `State.setI` -/

@[simp] theorem State.setI_mem (s : State) (w : Word) :
    (s.setI w).mem = s.mem := rfl

@[simp] theorem State.setI_V (s : State) (w : Word) :
    (s.setI w).V = s.V := rfl

@[simp] theorem State.setI_I (s : State) (w : Word) :
    (s.setI w).I = w := rfl

@[simp] theorem State.setI_pc (s : State) (w : Word) :
    (s.setI w).pc = s.pc := rfl

@[simp] theorem State.setI_stack (s : State) (w : Word) :
    (s.setI w).stack = s.stack := rfl

@[simp] theorem State.setI_sp (s : State) (w : Word) :
    (s.setI w).sp = s.sp := rfl

@[simp] theorem State.setI_keys (s : State) (w : Word) :
    (s.setI w).keys = s.keys := rfl

@[simp] theorem State.setI_fb (s : State) (w : Word) :
    (s.setI w).fb = s.fb := rfl

@[simp] theorem State.setI_DT (s : State) (w : Word) :
    (s.setI w).DT = s.DT := rfl

@[simp] theorem State.setI_ST (s : State) (w : Word) :
    (s.setI w).ST = s.ST := rfl

@[simp] theorem State.setI_fault (s : State) (w : Word) :
    (s.setI w).fault = s.fault := rfl

@[simp] theorem State.setI_draws (s : State) (w : Word) :
    (s.setI w).draws = s.draws := rfl

@[simp] theorem State.setI_drawIdx (s : State) (w : Word) :
    (s.setI w).drawIdx = s.drawIdx := rfl

/-! ### `State.setMem` -/

@[simp] theorem State.setMem_mem (s : State) (m : Memory) :
    (s.setMem m).mem = m := rfl

@[simp] theorem State.setMem_V (s : State) (m : Memory) :
    (s.setMem m).V = s.V := rfl

@[simp] theorem State.setMem_I (s : State) (m : Memory) :
    (s.setMem m).I = s.I := rfl

@[simp] theorem State.setMem_pc (s : State) (m : Memory) :
    (s.setMem m).pc = s.pc := rfl

@[simp] theorem State.setMem_stack (s : State) (m : Memory) :
    (s.setMem m).stack = s.stack := rfl

@[simp] theorem State.setMem_sp (s : State) (m : Memory) :
    (s.setMem m).sp = s.sp := rfl

@[simp] theorem State.setMem_keys (s : State) (m : Memory) :
    (s.setMem m).keys = s.keys := rfl

@[simp] theorem State.setMem_fb (s : State) (m : Memory) :
    (s.setMem m).fb = s.fb := rfl

@[simp] theorem State.setMem_DT (s : State) (m : Memory) :
    (s.setMem m).DT = s.DT := rfl

@[simp] theorem State.setMem_ST (s : State) (m : Memory) :
    (s.setMem m).ST = s.ST := rfl

@[simp] theorem State.setMem_fault (s : State) (m : Memory) :
    (s.setMem m).fault = s.fault := rfl

@[simp] theorem State.setMem_draws (s : State) (m : Memory) :
    (s.setMem m).draws = s.draws := rfl

@[simp] theorem State.setMem_drawIdx (s : State) (m : Memory) :
    (s.setMem m).drawIdx = s.drawIdx := rfl

/-! ### `State.setFb` -/

@[simp] theorem State.setFb_mem (s : State) (f : FrameBuffer) :
    (s.setFb f).mem = s.mem := rfl

@[simp] theorem State.setFb_V (s : State) (f : FrameBuffer) :
    (s.setFb f).V = s.V := rfl

@[simp] theorem State.setFb_I (s : State) (f : FrameBuffer) :
    (s.setFb f).I = s.I := rfl

@[simp] theorem State.setFb_pc (s : State) (f : FrameBuffer) :
    (s.setFb f).pc = s.pc := rfl

@[simp] theorem State.setFb_stack (s : State) (f : FrameBuffer) :
    (s.setFb f).stack = s.stack := rfl

@[simp] theorem State.setFb_sp (s : State) (f : FrameBuffer) :
    (s.setFb f).sp = s.sp := rfl

@[simp] theorem State.setFb_keys (s : State) (f : FrameBuffer) :
    (s.setFb f).keys = s.keys := rfl

@[simp] theorem State.setFb_fb (s : State) (f : FrameBuffer) :
    (s.setFb f).fb = f := rfl

@[simp] theorem State.setFb_DT (s : State) (f : FrameBuffer) :
    (s.setFb f).DT = s.DT := rfl

@[simp] theorem State.setFb_ST (s : State) (f : FrameBuffer) :
    (s.setFb f).ST = s.ST := rfl

@[simp] theorem State.setFb_fault (s : State) (f : FrameBuffer) :
    (s.setFb f).fault = s.fault := rfl

@[simp] theorem State.setFb_draws (s : State) (f : FrameBuffer) :
    (s.setFb f).draws = s.draws := rfl

@[simp] theorem State.setFb_drawIdx (s : State) (f : FrameBuffer) :
    (s.setFb f).drawIdx = s.drawIdx := rfl

/-! ### `State.setDT` -/

@[simp] theorem State.setDT_mem (s : State) (b : Byte) :
    (s.setDT b).mem = s.mem := rfl

@[simp] theorem State.setDT_V (s : State) (b : Byte) :
    (s.setDT b).V = s.V := rfl

@[simp] theorem State.setDT_I (s : State) (b : Byte) :
    (s.setDT b).I = s.I := rfl

@[simp] theorem State.setDT_pc (s : State) (b : Byte) :
    (s.setDT b).pc = s.pc := rfl

@[simp] theorem State.setDT_stack (s : State) (b : Byte) :
    (s.setDT b).stack = s.stack := rfl

@[simp] theorem State.setDT_sp (s : State) (b : Byte) :
    (s.setDT b).sp = s.sp := rfl

@[simp] theorem State.setDT_keys (s : State) (b : Byte) :
    (s.setDT b).keys = s.keys := rfl

@[simp] theorem State.setDT_fb (s : State) (b : Byte) :
    (s.setDT b).fb = s.fb := rfl

@[simp] theorem State.setDT_DT (s : State) (b : Byte) :
    (s.setDT b).DT = b := rfl

@[simp] theorem State.setDT_ST (s : State) (b : Byte) :
    (s.setDT b).ST = s.ST := rfl

@[simp] theorem State.setDT_fault (s : State) (b : Byte) :
    (s.setDT b).fault = s.fault := rfl

@[simp] theorem State.setDT_draws (s : State) (b : Byte) :
    (s.setDT b).draws = s.draws := rfl

@[simp] theorem State.setDT_drawIdx (s : State) (b : Byte) :
    (s.setDT b).drawIdx = s.drawIdx := rfl

/-! ### `State.setST` -/

@[simp] theorem State.setST_mem (s : State) (b : Byte) :
    (s.setST b).mem = s.mem := rfl

@[simp] theorem State.setST_V (s : State) (b : Byte) :
    (s.setST b).V = s.V := rfl

@[simp] theorem State.setST_I (s : State) (b : Byte) :
    (s.setST b).I = s.I := rfl

@[simp] theorem State.setST_pc (s : State) (b : Byte) :
    (s.setST b).pc = s.pc := rfl

@[simp] theorem State.setST_stack (s : State) (b : Byte) :
    (s.setST b).stack = s.stack := rfl

@[simp] theorem State.setST_sp (s : State) (b : Byte) :
    (s.setST b).sp = s.sp := rfl

@[simp] theorem State.setST_keys (s : State) (b : Byte) :
    (s.setST b).keys = s.keys := rfl

@[simp] theorem State.setST_fb (s : State) (b : Byte) :
    (s.setST b).fb = s.fb := rfl

@[simp] theorem State.setST_DT (s : State) (b : Byte) :
    (s.setST b).DT = s.DT := rfl

@[simp] theorem State.setST_ST (s : State) (b : Byte) :
    (s.setST b).ST = b := rfl

@[simp] theorem State.setST_fault (s : State) (b : Byte) :
    (s.setST b).fault = s.fault := rfl

@[simp] theorem State.setST_draws (s : State) (b : Byte) :
    (s.setST b).draws = s.draws := rfl

@[simp] theorem State.setST_drawIdx (s : State) (b : Byte) :
    (s.setST b).drawIdx = s.drawIdx := rfl

/-! ### `State.setKeyFlag` -/

@[simp] theorem State.setKeyFlag_mem (s : State) (k : Fin 16) (b : Bool) :
    (s.setKeyFlag k b).mem = s.mem := rfl

@[simp] theorem State.setKeyFlag_V (s : State) (k : Fin 16) (b : Bool) :
    (s.setKeyFlag k b).V = s.V := rfl

@[simp] theorem State.setKeyFlag_I (s : State) (k : Fin 16) (b : Bool) :
    (s.setKeyFlag k b).I = s.I := rfl

@[simp] theorem State.setKeyFlag_pc (s : State) (k : Fin 16) (b : Bool) :
    (s.setKeyFlag k b).pc = s.pc := rfl

@[simp] theorem State.setKeyFlag_stack (s : State) (k : Fin 16) (b : Bool) :
    (s.setKeyFlag k b).stack = s.stack := rfl

@[simp] theorem State.setKeyFlag_sp (s : State) (k : Fin 16) (b : Bool) :
    (s.setKeyFlag k b).sp = s.sp := rfl

@[simp] theorem State.setKeyFlag_keys (s : State) (k : Fin 16) (b : Bool) :
    (s.setKeyFlag k b).keys = s.keys.set k b := rfl

@[simp] theorem State.setKeyFlag_fb (s : State) (k : Fin 16) (b : Bool) :
    (s.setKeyFlag k b).fb = s.fb := rfl

@[simp] theorem State.setKeyFlag_DT (s : State) (k : Fin 16) (b : Bool) :
    (s.setKeyFlag k b).DT = s.DT := rfl

@[simp] theorem State.setKeyFlag_ST (s : State) (k : Fin 16) (b : Bool) :
    (s.setKeyFlag k b).ST = s.ST := rfl

@[simp] theorem State.setKeyFlag_fault (s : State) (k : Fin 16) (b : Bool) :
    (s.setKeyFlag k b).fault = s.fault := rfl

@[simp] theorem State.setKeyFlag_draws (s : State) (k : Fin 16) (b : Bool) :
    (s.setKeyFlag k b).draws = s.draws := rfl

@[simp] theorem State.setKeyFlag_drawIdx (s : State) (k : Fin 16) (b : Bool) :
    (s.setKeyFlag k b).drawIdx = s.drawIdx := rfl

/-! ### `State.setRegsBelow` -/

@[simp] theorem State.setRegsBelow_mem (s : State) (n : Nat) (f : Nat → Byte) :
    (s.setRegsBelow n f).mem = s.mem := rfl

@[simp] theorem State.setRegsBelow_V (s : State) (n : Nat) (f : Nat → Byte) :
    (s.setRegsBelow n f).V = writeRegsBelow s.V f n := rfl

@[simp] theorem State.setRegsBelow_I (s : State) (n : Nat) (f : Nat → Byte) :
    (s.setRegsBelow n f).I = s.I := rfl

@[simp] theorem State.setRegsBelow_pc (s : State) (n : Nat) (f : Nat → Byte) :
    (s.setRegsBelow n f).pc = s.pc := rfl

@[simp] theorem State.setRegsBelow_stack (s : State) (n : Nat) (f : Nat → Byte) :
    (s.setRegsBelow n f).stack = s.stack := rfl

@[simp] theorem State.setRegsBelow_sp (s : State) (n : Nat) (f : Nat → Byte) :
    (s.setRegsBelow n f).sp = s.sp := rfl

@[simp] theorem State.setRegsBelow_keys (s : State) (n : Nat) (f : Nat → Byte) :
    (s.setRegsBelow n f).keys = s.keys := rfl

@[simp] theorem State.setRegsBelow_fb (s : State) (n : Nat) (f : Nat → Byte) :
    (s.setRegsBelow n f).fb = s.fb := rfl

@[simp] theorem State.setRegsBelow_DT (s : State) (n : Nat) (f : Nat → Byte) :
    (s.setRegsBelow n f).DT = s.DT := rfl

@[simp] theorem State.setRegsBelow_ST (s : State) (n : Nat) (f : Nat → Byte) :
    (s.setRegsBelow n f).ST = s.ST := rfl

@[simp] theorem State.setRegsBelow_fault (s : State) (n : Nat) (f : Nat → Byte) :
    (s.setRegsBelow n f).fault = s.fault := rfl

@[simp] theorem State.setRegsBelow_draws (s : State) (n : Nat) (f : Nat → Byte) :
    (s.setRegsBelow n f).draws = s.draws := rfl

@[simp] theorem State.setRegsBelow_drawIdx (s : State) (n : Nat) (f : Nat → Byte) :
    (s.setRegsBelow n f).drawIdx = s.drawIdx := rfl

/-! ### `State.push` -/

@[simp] theorem State.push_mem (s : State) (w : Word) :
    (s.push w).mem = s.mem := rfl

@[simp] theorem State.push_V (s : State) (w : Word) :
    (s.push w).V = s.V := rfl

@[simp] theorem State.push_I (s : State) (w : Word) :
    (s.push w).I = s.I := rfl

@[simp] theorem State.push_pc (s : State) (w : Word) :
    (s.push w).pc = s.pc := rfl

@[simp] theorem State.push_stack (s : State) (w : Word) :
    (s.push w).stack = s.stack.setIfInBounds s.sp.val w := rfl

@[simp] theorem State.push_sp (s : State) (w : Word) :
    (s.push w).sp = s.sp + 1 := rfl

@[simp] theorem State.push_keys (s : State) (w : Word) :
    (s.push w).keys = s.keys := rfl

@[simp] theorem State.push_fb (s : State) (w : Word) :
    (s.push w).fb = s.fb := rfl

@[simp] theorem State.push_DT (s : State) (w : Word) :
    (s.push w).DT = s.DT := rfl

@[simp] theorem State.push_ST (s : State) (w : Word) :
    (s.push w).ST = s.ST := rfl

@[simp] theorem State.push_fault (s : State) (w : Word) :
    (s.push w).fault = s.fault := rfl

@[simp] theorem State.push_draws (s : State) (w : Word) :
    (s.push w).draws = s.draws := rfl

@[simp] theorem State.push_drawIdx (s : State) (w : Word) :
    (s.push w).drawIdx = s.drawIdx := rfl

/-! ### `State.pop` -/

@[simp] theorem State.pop_mem (s : State) :
    (s.pop).mem = s.mem := rfl

@[simp] theorem State.pop_V (s : State) :
    (s.pop).V = s.V := rfl

@[simp] theorem State.pop_I (s : State) :
    (s.pop).I = s.I := rfl

@[simp] theorem State.pop_pc (s : State) :
    (s.pop).pc = s.pc := rfl

@[simp] theorem State.pop_stack (s : State) :
    (s.pop).stack = s.stack := rfl

@[simp] theorem State.pop_sp (s : State) :
    (s.pop).sp = s.sp - 1 := rfl

@[simp] theorem State.pop_keys (s : State) :
    (s.pop).keys = s.keys := rfl

@[simp] theorem State.pop_fb (s : State) :
    (s.pop).fb = s.fb := rfl

@[simp] theorem State.pop_DT (s : State) :
    (s.pop).DT = s.DT := rfl

@[simp] theorem State.pop_ST (s : State) :
    (s.pop).ST = s.ST := rfl

@[simp] theorem State.pop_fault (s : State) :
    (s.pop).fault = s.fault := rfl

@[simp] theorem State.pop_draws (s : State) :
    (s.pop).draws = s.draws := rfl

@[simp] theorem State.pop_drawIdx (s : State) :
    (s.pop).drawIdx = s.drawIdx := rfl

/-! ### `State.useDraw` -/

@[simp] theorem State.useDraw_mem (s : State) :
    (s.useDraw).mem = s.mem := rfl

@[simp] theorem State.useDraw_V (s : State) :
    (s.useDraw).V = s.V := rfl

@[simp] theorem State.useDraw_I (s : State) :
    (s.useDraw).I = s.I := rfl

@[simp] theorem State.useDraw_pc (s : State) :
    (s.useDraw).pc = s.pc := rfl

@[simp] theorem State.useDraw_stack (s : State) :
    (s.useDraw).stack = s.stack := rfl

@[simp] theorem State.useDraw_sp (s : State) :
    (s.useDraw).sp = s.sp := rfl

@[simp] theorem State.useDraw_keys (s : State) :
    (s.useDraw).keys = s.keys := rfl

@[simp] theorem State.useDraw_fb (s : State) :
    (s.useDraw).fb = s.fb := rfl

@[simp] theorem State.useDraw_DT (s : State) :
    (s.useDraw).DT = s.DT := rfl

@[simp] theorem State.useDraw_ST (s : State) :
    (s.useDraw).ST = s.ST := rfl

@[simp] theorem State.useDraw_fault (s : State) :
    (s.useDraw).fault = s.fault := rfl

@[simp] theorem State.useDraw_draws (s : State) :
    (s.useDraw).draws = s.draws.tail := rfl

@[simp] theorem State.useDraw_drawIdx (s : State) :
    (s.useDraw).drawIdx = s.drawIdx + 1 := rfl

/-! ### `State.setDraws` -/

@[simp] theorem State.setDraws_mem (s : State) (ds : List Byte) :
    (s.setDraws ds).mem = s.mem := rfl

@[simp] theorem State.setDraws_V (s : State) (ds : List Byte) :
    (s.setDraws ds).V = s.V := rfl

@[simp] theorem State.setDraws_I (s : State) (ds : List Byte) :
    (s.setDraws ds).I = s.I := rfl

@[simp] theorem State.setDraws_pc (s : State) (ds : List Byte) :
    (s.setDraws ds).pc = s.pc := rfl

@[simp] theorem State.setDraws_stack (s : State) (ds : List Byte) :
    (s.setDraws ds).stack = s.stack := rfl

@[simp] theorem State.setDraws_sp (s : State) (ds : List Byte) :
    (s.setDraws ds).sp = s.sp := rfl

@[simp] theorem State.setDraws_keys (s : State) (ds : List Byte) :
    (s.setDraws ds).keys = s.keys := rfl

@[simp] theorem State.setDraws_fb (s : State) (ds : List Byte) :
    (s.setDraws ds).fb = s.fb := rfl

@[simp] theorem State.setDraws_DT (s : State) (ds : List Byte) :
    (s.setDraws ds).DT = s.DT := rfl

@[simp] theorem State.setDraws_ST (s : State) (ds : List Byte) :
    (s.setDraws ds).ST = s.ST := rfl

@[simp] theorem State.setDraws_fault (s : State) (ds : List Byte) :
    (s.setDraws ds).fault = s.fault := rfl

@[simp] theorem State.setDraws_draws (s : State) (ds : List Byte) :
    (s.setDraws ds).draws = ds := rfl

@[simp] theorem State.setDraws_drawIdx (s : State) (ds : List Byte) :
    (s.setDraws ds).drawIdx = s.drawIdx := rfl

/-! ### `State.latch` -/

@[simp] theorem State.latch_mem (s : State) (c : FaultCause) (op : Word) :
    (s.latch c op).mem = s.mem := rfl

@[simp] theorem State.latch_V (s : State) (c : FaultCause) (op : Word) :
    (s.latch c op).V = s.V := rfl

@[simp] theorem State.latch_I (s : State) (c : FaultCause) (op : Word) :
    (s.latch c op).I = s.I := rfl

@[simp] theorem State.latch_pc (s : State) (c : FaultCause) (op : Word) :
    (s.latch c op).pc = s.pc := rfl

@[simp] theorem State.latch_stack (s : State) (c : FaultCause) (op : Word) :
    (s.latch c op).stack = s.stack := rfl

@[simp] theorem State.latch_sp (s : State) (c : FaultCause) (op : Word) :
    (s.latch c op).sp = s.sp := rfl

@[simp] theorem State.latch_keys (s : State) (c : FaultCause) (op : Word) :
    (s.latch c op).keys = s.keys := rfl

@[simp] theorem State.latch_fb (s : State) (c : FaultCause) (op : Word) :
    (s.latch c op).fb = s.fb := rfl

@[simp] theorem State.latch_DT (s : State) (c : FaultCause) (op : Word) :
    (s.latch c op).DT = s.DT := rfl

@[simp] theorem State.latch_ST (s : State) (c : FaultCause) (op : Word) :
    (s.latch c op).ST = s.ST := rfl

@[simp] theorem State.latch_fault (s : State) (c : FaultCause) (op : Word) :
    (s.latch c op).fault = { cause := c, opcode := op, pc := s.pc } := rfl

@[simp] theorem State.latch_draws (s : State) (c : FaultCause) (op : Word) :
    (s.latch c op).draws = s.draws := rfl

@[simp] theorem State.latch_drawIdx (s : State) (c : FaultCause) (op : Word) :
    (s.latch c op).drawIdx = s.drawIdx := rfl

/-! ### `State.setResultThenFlag` -/

@[simp] theorem State.setResultThenFlag_mem (s : State) (x : Reg) (a b : Byte) :
    (s.setResultThenFlag x a b).mem = s.mem := rfl

@[simp] theorem State.setResultThenFlag_V (s : State) (x : Reg) (a b : Byte) :
    (s.setResultThenFlag x a b).V = (s.V.set x a).set VF b := rfl

@[simp] theorem State.setResultThenFlag_I (s : State) (x : Reg) (a b : Byte) :
    (s.setResultThenFlag x a b).I = s.I := rfl

@[simp] theorem State.setResultThenFlag_pc (s : State) (x : Reg) (a b : Byte) :
    (s.setResultThenFlag x a b).pc = s.pc := rfl

@[simp] theorem State.setResultThenFlag_stack (s : State) (x : Reg) (a b : Byte) :
    (s.setResultThenFlag x a b).stack = s.stack := rfl

@[simp] theorem State.setResultThenFlag_sp (s : State) (x : Reg) (a b : Byte) :
    (s.setResultThenFlag x a b).sp = s.sp := rfl

@[simp] theorem State.setResultThenFlag_keys (s : State) (x : Reg) (a b : Byte) :
    (s.setResultThenFlag x a b).keys = s.keys := rfl

@[simp] theorem State.setResultThenFlag_fb (s : State) (x : Reg) (a b : Byte) :
    (s.setResultThenFlag x a b).fb = s.fb := rfl

@[simp] theorem State.setResultThenFlag_DT (s : State) (x : Reg) (a b : Byte) :
    (s.setResultThenFlag x a b).DT = s.DT := rfl

@[simp] theorem State.setResultThenFlag_ST (s : State) (x : Reg) (a b : Byte) :
    (s.setResultThenFlag x a b).ST = s.ST := rfl

@[simp] theorem State.setResultThenFlag_fault (s : State) (x : Reg) (a b : Byte) :
    (s.setResultThenFlag x a b).fault = s.fault := rfl

@[simp] theorem State.setResultThenFlag_draws (s : State) (x : Reg) (a b : Byte) :
    (s.setResultThenFlag x a b).draws = s.draws := rfl

@[simp] theorem State.setResultThenFlag_drawIdx (s : State) (x : Reg) (a b : Byte) :
    (s.setResultThenFlag x a b).drawIdx = s.drawIdx := rfl

/-! ### Reads through updates -/

theorem State.reg_def (s : State) (x : Reg) : s.reg x = s.V[x] := rfl

@[simp] theorem State.reg_setReg (s : State) (x r : Reg) (b : Byte) :
    (s.setReg x b).reg r = if r = x then b else s.reg r := by
  simp only [State.reg, State.setReg]
  by_cases h : r = x
  · subst h; simp
  · rw [if_neg h]
    exact Vector.getElem_set_ne _ _ (fun he => h (Fin.ext he.symm))

theorem getElem_writeRegsBelow (v : Vector Byte 16) (f : Nat → Byte) (n : Nat) (r : Reg) :
    (writeRegsBelow v f n)[r] = if r.val < n then f r.val else v[r] := by
  induction n with
  | zero => rw [if_neg (by omega)]; rfl
  | succ n ih =>
    simp only [writeRegsBelow, Fin.getElem_fin, Vector.getElem_setIfInBounds] at ih ⊢
    by_cases h : n = r.val
    · rw [if_pos h, if_pos (by omega), h]
    · rw [if_neg h, ih]
      by_cases hr : r.val < n
      · rw [if_pos hr, if_pos (by omega)]
      · rw [if_neg hr, if_neg (by omega)]

@[simp] theorem State.reg_setRegsBelow (s : State) (n : Nat) (f : Nat → Byte) (r : Reg) :
    (s.setRegsBelow n f).reg r = if r.val < n then f r.val else s.reg r := by
  exact getElem_writeRegsBelow s.V f n r

@[simp] theorem State.reg_setPc (s : State) (w : Word) (r : Reg) :
    (s.setPc w).reg r = s.reg r := rfl

@[simp] theorem State.reg_advance (s : State) (r : Reg) :
    (s.advance).reg r = s.reg r := rfl

@[simp] theorem State.reg_setI (s : State) (w : Word) (r : Reg) :
    (s.setI w).reg r = s.reg r := rfl

@[simp] theorem State.reg_setMem (s : State) (m : Memory) (r : Reg) :
    (s.setMem m).reg r = s.reg r := rfl

@[simp] theorem State.reg_setFb (s : State) (f : FrameBuffer) (r : Reg) :
    (s.setFb f).reg r = s.reg r := rfl

@[simp] theorem State.reg_setDT (s : State) (b : Byte) (r : Reg) :
    (s.setDT b).reg r = s.reg r := rfl

@[simp] theorem State.reg_setST (s : State) (b : Byte) (r : Reg) :
    (s.setST b).reg r = s.reg r := rfl

@[simp] theorem State.reg_setKeyFlag (s : State) (k : Fin 16) (b : Bool) (r : Reg) :
    (s.setKeyFlag k b).reg r = s.reg r := rfl

@[simp] theorem State.reg_push (s : State) (w : Word) (r : Reg) :
    (s.push w).reg r = s.reg r := rfl

@[simp] theorem State.reg_pop (s : State) (r : Reg) :
    (s.pop).reg r = s.reg r := rfl

@[simp] theorem State.reg_useDraw (s : State) (r : Reg) :
    (s.useDraw).reg r = s.reg r := rfl

@[simp] theorem State.reg_latch (s : State) (c : FaultCause) (op : Word) (r : Reg) :
    (s.latch c op).reg r = s.reg r := rfl

@[simp] theorem State.reg_setDraws (s : State) (ds : List Byte) (r : Reg) :
    (s.setDraws ds).reg r = s.reg r := rfl

/-- The fetch does not look at the draws. -/
@[simp] theorem State.fetch_setDraws (s : State) (ds : List Byte) : (s.setDraws ds).fetch = s.fetch := rfl

@[simp] theorem State.reg_setResultThenFlag (s : State) (x r : Reg) (a b : Byte) :
    (s.setResultThenFlag x a b).reg r = if r = VF then b else if r = x then a else s.reg r := by
  simp [State.setResultThenFlag]

/-- The running test looks at the fault latch alone. -/
theorem State.running_iff (s : State) : s.running = true ↔ s.fault.cause = .noFault := by
  simp [State.running]

end Sys2Proof.Machine
end

