-- ==== Sys2Proof/Laws/Ops.lean ====
section
/-! SUPPORT. One lemma per shared operation: what it does, said once. -/

namespace Sys2Proof.Machine

/-! ### Skips -/

theorem State.skipIf_eq (s : State) (c : Bool) : s.skipIf c = s.setPc (if c then s.pc + 2 else s.pc) := by
  cases c <;> rfl

/-! ### Flags -/

/-- A flag byte is 0 or 1. -/
theorem flagByte_toNat (c : Bool) : (flagByte c).toNat = if c then 1 else 0 := by
  cases c <;> rfl

theorem carryFlag_toNat (a b : Byte) : (carryFlag a b).toNat = if a.toNat + b.toNat > 255 then 1 else 0 := by
  simp [carryFlag, flagByte_toNat]

theorem notBorrowFlag_toNat (a b : Byte) : (notBorrowFlag a b).toNat = if a.toNat < b.toNat then 0 else 1 := by
  simp only [notBorrowFlag, flagByte_toNat]
  split <;> split <;> simp_all

theorem lowBitFlag_toNat (a : Byte) : (lowBitFlag a).toNat = a.toNat % 2 := by
  simp [lowBitFlag, Nat.and_one_is_mod]

theorem highBitFlag_toNat (a : Byte) : (highBitFlag a).toNat = a.toNat / 128 := by
  simp [highBitFlag, Nat.shiftRight_eq_div_pow]

/-- A shift's two writes change registers alone. -/
theorem State.setShift_frame (s : State) (o : ShiftVfAlias) (x : Reg) (f : Byte → Byte) (b : Byte) :
    UnchangedBut [.regs] s (s.setShift o x f b) := by
  intro p hp
  cases o <;> cases p <;> first | exact ⟨rfl, rfl⟩ | exact fun _ => rfl | rfl | exact absurd (by simp) hp

/-- The registers after a shift: other registers keep their value; the shifted register and VF follow the setting. -/
theorem State.reg_setShift (s : State) (o : ShiftVfAlias) (x r : Reg) (f : Byte → Byte) (b : Byte) :
    (s.setShift o x f b).reg r =
      if r = VF then (if x = VF ∧ o = .resultLast then f b else b)
      else if r = x then f (s.reg x) else s.reg r := by
  cases o with
  | flagLast => simp [State.setShift]
  | resultLast =>
    simp only [State.setShift, State.reg_setReg]
    by_cases hr : r = x
    · subst hr
      by_cases hv : r = VF <;> simp [hv]
    · by_cases hv : r = VF
      · subst hv; simp [hr, Ne.symm hr]
      · simp [hr, hv]

/-! ### Faults and fetch -/

/-- Taking a fault is a next state that differs in the fault record alone. -/
theorem latched_latch (s : State) (c : FaultCause) (op : Word) : Latched c op s (s.latch c op) := by
  refine ⟨rfl, fun p hp => ?_⟩
  cases p <;> first | exact ⟨rfl, rfl⟩ | exact fun _ => rfl | rfl | exact absurd (by simp) hp

theorem takeFault_eq (c : FaultCause) (op : Word) (s : State) : takeFault c op s = .next (s.latch c op) := rfl

/-- The fetch finds nothing exactly when a fault is latched. -/
theorem State.fetch_quiescent_iff (s : State) : s.fetch = .quiescent ↔ s.running = false := by
  unfold State.fetch
  split
  · split
    · simp_all
    · split <;> simp_all
  · simp_all

/-- The fetch gives an instruction exactly when no fault is latched, both bytes exist and their word decodes to it. -/
theorem State.fetch_instr_iff (s : State) (i : Instr) :
    s.fetch = .instr i ↔ s.running = true ∧ ∃ w, s.mem.fetchWord s.pc.toNat = some w ∧ decodeWord w = .ok i := by
  unfold State.fetch
  split
  · split
    · simp_all
    · split <;> simp_all
  · simp_all

/-- The fetch faults exactly past the end of memory, or on a word that decodes to nothing. -/
theorem State.fetch_faults_iff (s : State) (c : FaultCause) (op : Word) :
    s.fetch = .faults c op ↔ s.running = true ∧
      ((s.mem.fetchWord s.pc.toNat = none ∧ c = .memOutOfBounds ∧ op = 0) ∨
       (s.mem.fetchWord s.pc.toNat = some op ∧ c = .illegalOpcode ∧ ∃ e, decodeWord op = .error e)) := by
  unfold State.fetch
  split
  · split
    · next hr _ h =>
      constructor
      · intro he
        obtain ⟨rfl, rfl⟩ := Fetched.faults.inj he
        exact ⟨hr, .inl ⟨h, rfl, rfl⟩⟩
      · rintro ⟨-, ⟨-, rfl, rfl⟩ | ⟨h', -⟩⟩
        · rfl
        · rw [h] at h'; cases h'
    · next hr _ w h =>
      split
      · next i hi =>
        constructor
        · intro he; cases he
        · rintro ⟨-, ⟨h', -⟩ | ⟨h', -, e, he⟩⟩
          · rw [h] at h'; cases h'
          · cases h.symm.trans h'; rw [hi] at he; cases he
      · next e hw =>
        constructor
        · intro he
          obtain ⟨rfl, rfl⟩ := Fetched.faults.inj he
          exact ⟨hr, .inr ⟨h, rfl, e, hw⟩⟩
        · rintro ⟨-, ⟨h', -⟩ | ⟨h', rfl, -⟩⟩
          · rw [h] at h'; cases h'
          · cases h.symm.trans h'; rfl
  · simp_all

/-- The opcode at an address is its two bytes, when both exist. -/
theorem Memory.fetchWord_eq_some (m : Memory) (a : Nat) (w : Word) :
    m.fetchWord a = some w ↔ a + 1 < Config.memSize ∧ w = bytesToWord (m.get a) (m.get (a + 1)) := by
  unfold Memory.fetchWord
  by_cases h : a + 1 < Config.memSize
  · rw [if_pos h]
    exact ⟨fun e => ⟨h, (Option.some.inj e).symm⟩, fun e => by rw [e.2]⟩
  · rw [if_neg h]
    exact ⟨fun e => (nomatch e), fun e => absurd e.1 h⟩

/-! ### The framebuffer -/

/-- A toggle turns the one cell over and leaves every other. -/
theorem FrameBuffer.cell_toggle (f : FrameBuffer) (i j : Fin 2048) :
    FrameBuffer.cell (FrameBuffer.toggle f i) j = if j = i then !FrameBuffer.cell f j else FrameBuffer.cell f j := by
  simp only [FrameBuffer.cell, FrameBuffer.toggle, Vector.getElem_set]
  by_cases hrow : i.val / 64 = j.val / 64
  · by_cases hcol : i.val % 64 = j.val % 64
    · have hji : j = i := Fin.ext (by omega)
      subst hji
      have : j.val % 64 < 64 := by omega
      simp [this]
    · have hji : j ≠ i := fun h => hcol (by rw [h])
      have : j.val % 64 < 64 := by omega
      rw [if_pos hrow, if_neg hji]
      simp only [BitVec.getLsbD_xor, BitVec.getLsbD_twoPow, hrow]
      simp [hcol]
  · have hji : j ≠ i := fun h => hrow (by rw [h])
    rw [if_neg hrow, if_neg hji]

/-- No cell of the blank framebuffer is on. -/
@[simp] theorem FrameBuffer.cell_blank (i : Fin 2048) : FrameBuffer.cell FrameBuffer.blank i = false := by
  simp [FrameBuffer.cell, FrameBuffer.blank]

end Sys2Proof.Machine
end

