-- ==== Sys2Proof/Laws/PerInstr.lean ====
section
/-! SUPPORT. Statements for all instructions, one lemma per constructor. `EncodingFitsItsRow`: the word of an
instruction matches the row of 30_encoding.md R65 that bears its name. -/

namespace Sys2Proof.Laws

/-- The encoding of `i` selects the row of the opcode table with the mnemonic of `i`. -/
def EncodingFitsItsRow.Statement (i : Instr) : Prop :=
  ∃ r ∈ opcodeTable, r.mnemonic = i.mnemonic ∧ r.selects (encode i) = true

theorem fits_of_mask {i : Instr} {r : OpcodeRow} (hr : r ∈ opcodeTable) (hm : r.mnemonic = i.mnemonic)
    (h : encode i &&& r.mask = r.code) : EncodingFitsItsRow.Statement i :=
  ⟨r, hr, hm, by simp [OpcodeRow.selects, h]⟩

theorem EncodingFitsItsRow.nop : EncodingFitsItsRow.Statement .nop :=
  fits_of_mask (r := ⟨"NOP", 0x0000, 0xFFFF⟩) (by decide) rfl (rfl)

theorem EncodingFitsItsRow.cls : EncodingFitsItsRow.Statement .cls :=
  fits_of_mask (r := ⟨"CLS", 0x00E0, 0xFFFF⟩) (by decide) rfl (rfl)

theorem EncodingFitsItsRow.ret : EncodingFitsItsRow.Statement .ret :=
  fits_of_mask (r := ⟨"RET", 0x00EE, 0xFFFF⟩) (by decide) rfl (rfl)

theorem EncodingFitsItsRow.jp (nnn : Addr12) : EncodingFitsItsRow.Statement (.jp nnn) :=
  fits_of_mask (r := ⟨"JP", 0x1000, 0xF000⟩) (by decide) rfl (mask_formA _ _)

theorem EncodingFitsItsRow.call (nnn : Addr12) : EncodingFitsItsRow.Statement (.call nnn) :=
  fits_of_mask (r := ⟨"CALL", 0x2000, 0xF000⟩) (by decide) rfl (mask_formA _ _)

theorem EncodingFitsItsRow.seI (x : Reg) (nn : Byte) : EncodingFitsItsRow.Statement (.seI x nn) :=
  fits_of_mask (r := ⟨"SE_I", 0x3000, 0xF000⟩) (by decide) rfl (mask_formXB _ _ _)

theorem EncodingFitsItsRow.sneI (x : Reg) (nn : Byte) : EncodingFitsItsRow.Statement (.sneI x nn) :=
  fits_of_mask (r := ⟨"SNE_I", 0x4000, 0xF000⟩) (by decide) rfl (mask_formXB _ _ _)

theorem EncodingFitsItsRow.seR (x y : Reg) : EncodingFitsItsRow.Statement (.seR x y) :=
  fits_of_mask (r := ⟨"SE_R", 0x5000, 0xF00F⟩) (by decide) rfl (mask_formXY _ _ _ _)

theorem EncodingFitsItsRow.ldI (x : Reg) (nn : Byte) : EncodingFitsItsRow.Statement (.ldI x nn) :=
  fits_of_mask (r := ⟨"LD_I", 0x6000, 0xF000⟩) (by decide) rfl (mask_formXB _ _ _)

theorem EncodingFitsItsRow.addI (x : Reg) (nn : Byte) : EncodingFitsItsRow.Statement (.addI x nn) :=
  fits_of_mask (r := ⟨"ADD_I", 0x7000, 0xF000⟩) (by decide) rfl (mask_formXB _ _ _)

theorem EncodingFitsItsRow.ldR (x y : Reg) : EncodingFitsItsRow.Statement (.ldR x y) :=
  fits_of_mask (r := ⟨"LD_R", 0x8000, 0xF00F⟩) (by decide) rfl (mask_formXY _ _ _ _)

theorem EncodingFitsItsRow.or (x y : Reg) : EncodingFitsItsRow.Statement (.or x y) :=
  fits_of_mask (r := ⟨"OR", 0x8001, 0xF00F⟩) (by decide) rfl (mask_formXY _ _ _ _)

theorem EncodingFitsItsRow.and (x y : Reg) : EncodingFitsItsRow.Statement (.and x y) :=
  fits_of_mask (r := ⟨"AND", 0x8002, 0xF00F⟩) (by decide) rfl (mask_formXY _ _ _ _)

theorem EncodingFitsItsRow.xor (x y : Reg) : EncodingFitsItsRow.Statement (.xor x y) :=
  fits_of_mask (r := ⟨"XOR", 0x8003, 0xF00F⟩) (by decide) rfl (mask_formXY _ _ _ _)

theorem EncodingFitsItsRow.addR (x y : Reg) : EncodingFitsItsRow.Statement (.addR x y) :=
  fits_of_mask (r := ⟨"ADD_R", 0x8004, 0xF00F⟩) (by decide) rfl (mask_formXY _ _ _ _)

theorem EncodingFitsItsRow.sub (x y : Reg) : EncodingFitsItsRow.Statement (.sub x y) :=
  fits_of_mask (r := ⟨"SUB", 0x8005, 0xF00F⟩) (by decide) rfl (mask_formXY _ _ _ _)

theorem EncodingFitsItsRow.shr (x y : Reg) : EncodingFitsItsRow.Statement (.shr x y) :=
  fits_of_mask (r := ⟨"SHR", 0x8006, 0xF00F⟩) (by decide) rfl (mask_formXY _ _ _ _)

theorem EncodingFitsItsRow.subn (x y : Reg) : EncodingFitsItsRow.Statement (.subn x y) :=
  fits_of_mask (r := ⟨"SUBN", 0x8007, 0xF00F⟩) (by decide) rfl (mask_formXY _ _ _ _)

theorem EncodingFitsItsRow.shl (x y : Reg) : EncodingFitsItsRow.Statement (.shl x y) :=
  fits_of_mask (r := ⟨"SHL", 0x800E, 0xF00F⟩) (by decide) rfl (mask_formXY _ _ _ _)

theorem EncodingFitsItsRow.sneR (x y : Reg) : EncodingFitsItsRow.Statement (.sneR x y) :=
  fits_of_mask (r := ⟨"SNE_R", 0x9000, 0xF00F⟩) (by decide) rfl (mask_formXY _ _ _ _)

theorem EncodingFitsItsRow.ldIdx (nnn : Addr12) : EncodingFitsItsRow.Statement (.ldIdx nnn) :=
  fits_of_mask (r := ⟨"LD_IDX", 0xA000, 0xF000⟩) (by decide) rfl (mask_formA _ _)

theorem EncodingFitsItsRow.jpV0 (nnn : Addr12) : EncodingFitsItsRow.Statement (.jpV0 nnn) :=
  fits_of_mask (r := ⟨"JP_V0", 0xB000, 0xF000⟩) (by decide) rfl (mask_formA _ _)

theorem EncodingFitsItsRow.rnd (x : Reg) (nn : Byte) : EncodingFitsItsRow.Statement (.rnd x nn) :=
  fits_of_mask (r := ⟨"RND", 0xC000, 0xF000⟩) (by decide) rfl (mask_formXB _ _ _)

theorem EncodingFitsItsRow.drw (x y : Reg) (z : Nat) : EncodingFitsItsRow.Statement (.drw x y z) :=
  fits_of_mask (r := ⟨"DRW", 0xD000, 0xF000⟩) (by decide) rfl (mask_formXYZ _ _ _ _)

theorem EncodingFitsItsRow.skp (x : Reg) : EncodingFitsItsRow.Statement (.skp x) :=
  fits_of_mask (r := ⟨"SKP", 0xE09E, 0xF0FF⟩) (by decide) rfl (mask_formXS _ _ _)

theorem EncodingFitsItsRow.sknp (x : Reg) : EncodingFitsItsRow.Statement (.sknp x) :=
  fits_of_mask (r := ⟨"SKNP", 0xE0A1, 0xF0FF⟩) (by decide) rfl (mask_formXS _ _ _)

theorem EncodingFitsItsRow.ldVxDt (x : Reg) : EncodingFitsItsRow.Statement (.ldVxDt x) :=
  fits_of_mask (r := ⟨"LD_VX_DT", 0xF007, 0xF0FF⟩) (by decide) rfl (mask_formXS _ _ _)

theorem EncodingFitsItsRow.ldVxK (x : Reg) : EncodingFitsItsRow.Statement (.ldVxK x) :=
  fits_of_mask (r := ⟨"LD_VX_K", 0xF00A, 0xF0FF⟩) (by decide) rfl (mask_formXS _ _ _)

theorem EncodingFitsItsRow.ldDtVx (x : Reg) : EncodingFitsItsRow.Statement (.ldDtVx x) :=
  fits_of_mask (r := ⟨"LD_DT_VX", 0xF015, 0xF0FF⟩) (by decide) rfl (mask_formXS _ _ _)

theorem EncodingFitsItsRow.ldStVx (x : Reg) : EncodingFitsItsRow.Statement (.ldStVx x) :=
  fits_of_mask (r := ⟨"LD_ST_VX", 0xF018, 0xF0FF⟩) (by decide) rfl (mask_formXS _ _ _)

theorem EncodingFitsItsRow.addIdx (x : Reg) : EncodingFitsItsRow.Statement (.addIdx x) :=
  fits_of_mask (r := ⟨"ADD_IDX", 0xF01E, 0xF0FF⟩) (by decide) rfl (mask_formXS _ _ _)

theorem EncodingFitsItsRow.ldF (x : Reg) : EncodingFitsItsRow.Statement (.ldF x) :=
  fits_of_mask (r := ⟨"LD_F", 0xF029, 0xF0FF⟩) (by decide) rfl (mask_formXS _ _ _)

theorem EncodingFitsItsRow.ldB (x : Reg) : EncodingFitsItsRow.Statement (.ldB x) :=
  fits_of_mask (r := ⟨"LD_B", 0xF033, 0xF0FF⟩) (by decide) rfl (mask_formXS _ _ _)

theorem EncodingFitsItsRow.stRegs (x : Reg) : EncodingFitsItsRow.Statement (.stRegs x) :=
  fits_of_mask (r := ⟨"ST_REGS", 0xF055, 0xF0FF⟩) (by decide) rfl (mask_formXS _ _ _)

theorem EncodingFitsItsRow.ldRegs (x : Reg) : EncodingFitsItsRow.Statement (.ldRegs x) :=
  fits_of_mask (r := ⟨"LD_REGS", 0xF065, 0xF0FF⟩) (by decide) rfl (mask_formXS _ _ _)

end Sys2Proof.Laws
end

