-- ==== Sys2Proof/Laws/Step.lean ====
section
/-! SUPPORT. What a step can do, said once. -/

namespace Sys2Proof.Machine

/-- The three ways a step reaches a next state: nothing happens while a fault is latched; the fetch or the dispatch
faults; or the decoded instruction runs. -/
theorem step_cases {s t : State} (h : step s = .next t) :
    (s.running = false ∧ t = s) ∨ (∃ c op, s.fetch = .faults c op ∧ t = s.latch c op) ∨
      (∃ i, s.fetch = .instr i ∧ exec i s = .next t) := by
  unfold step at h
  split at h
  · next hq =>
    refine .inl ⟨(State.fetch_quiescent_iff s).1 hq, ?_⟩
    simpa using h.symm
  · next c op hf =>
    refine .inr (.inl ⟨c, op, hf, ?_⟩)
    simpa [takeFault] using h.symm
  · next i hi => exact .inr (.inr ⟨i, hi, h⟩)

theorem step_of_instr {s : State} {i : Instr} (h : s.fetch = .instr i) : step s = exec i s := by
  unfold step; rw [h]

theorem step_of_faults {s : State} {c : FaultCause} {op : Word} (h : s.fetch = .faults c op) :
    step s = .next (s.latch c op) := by
  unfold step; rw [h]; rfl

/-- What a `step(rnd)` event answers, from what the step with its draw in front answers. -/
theorem stepWith_next {rnd : Byte} {s t : State} (h : stepWith rnd s = .next t) :
    ∃ u, step (s.setDraws (rnd :: s.draws)) = .next u ∧ t = u.setDraws s.draws := by
  unfold stepWith at h
  split at h
  · next u hu => exact ⟨u, hu, by simpa using h.symm⟩
  · exact nomatch ‹Fault›
  · simp at h

theorem stepWith_of_step {rnd : Byte} {s u : State} (h : step (s.setDraws (rnd :: s.draws)) = .next u) :
    stepWith rnd s = .next (u.setDraws s.draws) := by
  unfold stepWith; rw [h]

end Sys2Proof.Machine
end

