-- ==== Sys2Proof/Tests/Slice0.lean ====
section
/-! SUPPORT. Tests and witnesses. The words are written out bit by bit from the matches and fields of 30_encoding.md R65;
the expected results are those of spec/95_test_vectors.md, whose vector each test names. The start state is the reset
state with one opcode where the next step fetches, unless a test says otherwise. -/

open Sys2Proof Sys2Proof.Machine

namespace Sys2Proof.Tests

/-- The reset state with an opcode at 0x200. -/
def start (op : Nat) : State := State.reset.withFetchWord 16 op

/-- The state after one step; a step that stops gives the state back. -/
def State.stepped (s : State) : State :=
  match step s with
  | .next t => t
  | .fault _ | .refused _ => s

/-- The outcome is the next state `t`; a decidable form of an equation between outcomes. -/
def answers (o : Host.Outcome State Fault Refusal) (t : State) : Bool :=
  match o with
  | .next u => decide (u = t)
  | .fault _ | .refused _ => false

theorem next_of_answers {o : Host.Outcome State Fault Refusal} {t : State} (h : answers o t = true) : o = .next t := by
  cases o with
  | next u => rw [of_decide_eq_true h]
  | fault f => cases h
  | refused r => cases h

/-- The state after an event. -/
def afterEvent (e : Event) (s : State) : State :=
  match e.apply s with
  | .next t => t
  | .fault _ | .refused _ => s

/-- The state with registers set. -/
def withRegs (s : State) (l : List (Reg × Byte)) : State := l.foldl (fun u p => u.setReg p.1 p.2) s

/-- The state with bytes of memory set. -/
def withMem (s : State) (a : Nat) (bs : List Byte) : State := s.setMem (s.mem.putAll a bs)

/-- The state with cells toggled. -/
def withCells (s : State) (l : List (Fin 2048)) : State := s.setFb (l.foldl FrameBuffer.toggle s.fb)

/-- The cells that are on. -/
def cellsOn (s : State) : List Nat := ((List.finRange 2048).filter fun i => FrameBuffer.cell s.fb i).map Fin.val

/-- `n` bytes of memory from an address. -/
def bytesAt (s : State) (a n : Nat) : List Byte := (List.range n).map fun k => s.mem.get (a + k)

/-! ## Well-formedness -/

/-- The one check of WellFormed.lean: a sprite height that has no encoding is refused. -/
theorem test_wellFormed_refuses_height_16 : ¬ (Instr.drw 0 0 16).WellFormed := by decide

theorem test_wellFormed_takes_height_15 : (Instr.drw 0 0 15).WellFormed := by decide

/-! ## Decoding, one word per row of the opcode table -/

theorem test_decode_nop : decodeWord 0b0000000000000000 = .ok .nop := by decide
theorem test_decode_cls : decodeWord 0b0000000011100000 = .ok .cls := by decide
theorem test_decode_ret : decodeWord 0b0000000011101110 = .ok .ret := by decide
theorem test_decode_jp : decodeWord 0b0001001000110100 = .ok (.jp 0x234) := by decide
theorem test_decode_call : decodeWord 0b0010001101000101 = .ok (.call 0x345) := by decide
theorem test_decode_seI : decodeWord 0b0011001100010001 = .ok (.seI 3 0x11) := by decide
theorem test_decode_sneI : decodeWord 0b0100001100010001 = .ok (.sneI 3 0x11) := by decide
theorem test_decode_seR : decodeWord 0b0101000100100000 = .ok (.seR 1 2) := by decide
theorem test_decode_ldI : decodeWord 0b0110101001010101 = .ok (.ldI 10 0x55) := by decide
theorem test_decode_addI : decodeWord 0b0111000111111111 = .ok (.addI 1 0xFF) := by decide
theorem test_decode_ldR : decodeWord 0b1000000100100000 = .ok (.ldR 1 2) := by decide
theorem test_decode_or : decodeWord 0b1000000100100001 = .ok (.or 1 2) := by decide
theorem test_decode_and : decodeWord 0b1000000100100010 = .ok (.and 1 2) := by decide
theorem test_decode_xor : decodeWord 0b1000000100100011 = .ok (.xor 1 2) := by decide
theorem test_decode_addR : decodeWord 0b1000000100100100 = .ok (.addR 1 2) := by decide
theorem test_decode_sub : decodeWord 0b1000000100100101 = .ok (.sub 1 2) := by decide
theorem test_decode_shr : decodeWord 0b1000000100100110 = .ok (.shr 1 2) := by decide
theorem test_decode_subn : decodeWord 0b1000000100100111 = .ok (.subn 1 2) := by decide
theorem test_decode_shl : decodeWord 0b1000000100101110 = .ok (.shl 1 2) := by decide
theorem test_decode_sneR : decodeWord 0b1001000100100000 = .ok (.sneR 1 2) := by decide
theorem test_decode_ldIdx : decodeWord 0b1010001100000001 = .ok (.ldIdx 0x301) := by decide
theorem test_decode_jpV0 : decodeWord 0b1011001000010000 = .ok (.jpV0 0x210) := by decide
theorem test_decode_rnd : decodeWord 0b1100010100111100 = .ok (.rnd 5 0x3C) := by decide
theorem test_decode_drw : decodeWord 0b1101000100101111 = .ok (.drw 1 2 15) := by decide
theorem test_decode_skp : decodeWord 0b1110101110011110 = .ok (.skp 11) := by decide
theorem test_decode_sknp : decodeWord 0b1110111110100001 = .ok (.sknp 15) := by decide
theorem test_decode_ldVxDt : decodeWord 0b1111001000000111 = .ok (.ldVxDt 2) := by decide
theorem test_decode_ldVxK : decodeWord 0b1111000100001010 = .ok (.ldVxK 1) := by decide
theorem test_decode_ldDtVx : decodeWord 0b1111000100010101 = .ok (.ldDtVx 1) := by decide
theorem test_decode_ldStVx : decodeWord 0b1111011000011000 = .ok (.ldStVx 6) := by decide
theorem test_decode_addIdx : decodeWord 0b1111001000011110 = .ok (.addIdx 2) := by decide
theorem test_decode_ldF : decodeWord 0b1111101000101001 = .ok (.ldF 10) := by decide
theorem test_decode_ldB : decodeWord 0b1111010000110011 = .ok (.ldB 4) := by decide
theorem test_decode_stRegs : decodeWord 0b1111001101010101 = .ok (.stRegs 3) := by decide
theorem test_decode_ldRegs : decodeWord 0b1111001001100101 = .ok (.ldRegs 2) := by decide

/-- V-F-6 to V-F-10: words beside a legal one are refused by name. -/
theorem test_decode_illegal :
    [0x8008, 0x00E1, 0x5121, 0xF000, 0xE09F, 0x9121].map decodeWord =
      [0x8008, 0x00E1, 0x5121, 0xF000, 0xE09F, 0x9121].map fun w => .error (.illegalOpcode w) := by decide

theorem test_decodeTableWord : decodeTableWord 16 0x6A55 = some (.ldI 10 0x55) ∧ decodeTableWord 16 0x8008 = none := by
  decide

/-! ## Fetch -/

/-- V-F-2 -/
theorem test_fetch_last_word : (State.stepped { State.reset with pc := 0x0FFE }).pc = 0x1000 := by decide

/-- V-F-4 -/
theorem test_fetch_past_end :
    (State.stepped { State.reset with pc := 0x0FFF }).fault = ⟨.memOutOfBounds, 0x0000, 0x0FFF⟩ := by decide

/-- V-F-5 -/
theorem test_fetch_odd :
    (State.stepped (withMem { State.reset with pc := 0x0201 } 0x201 [0x6A, 0x55])).reg 10 = 0x55 := by decide

/-- V-F-6 -/
theorem test_step_illegal :
    step (start 0x8008) = .next { start 0x8008 with fault := ⟨.illegalOpcode, 0x8008, 0x0200⟩ } := next_of_answers (by decide)

/-! ## Control flow -/

/-- V-C-1 -/
theorem test_nop : step (start 0x0000) = .next { start 0x0000 with pc := 0x202 } := next_of_answers (by decide)

/-- V-C-2 -/
theorem test_jp_self : step (start 0x1200) = .next (start 0x1200) := next_of_answers (by decide)

/-- V-C-4 -/
theorem test_jp_odd : (State.stepped (start 0x1001)).pc = 0x0001 := by decide

/-- V-C-6 -/
theorem test_call_last_slot :
    (State.stepped { start 0x2345 with sp := 15 }).stack[15] = 0x0202 ∧
      (State.stepped { start 0x2345 with sp := 15 }).sp = 16 ∧
      (State.stepped { start 0x2345 with sp := 15 }).pc = 0x0345 := by decide

/-- V-C-7 -/
theorem test_call_overflow :
    step { start 0x2345 with sp := 16 } =
      .next { start 0x2345 with sp := 16, fault := ⟨.stackOverflow, 0x2345, 0x0200⟩ } := next_of_answers (by decide)

/-- V-C-8 -/
theorem test_ret :
    step { start 0x00EE with sp := 1, stack := State.reset.stack.set 0 0x0ABC } =
      .next { start 0x00EE with sp := 0, stack := State.reset.stack.set 0 0x0ABC, pc := 0x0ABC } := next_of_answers (by decide)

/-- V-C-9 -/
theorem test_ret_underflow :
    step (start 0x00EE) = .next { start 0x00EE with fault := ⟨.stackUnderflow, 0x00EE, 0x0200⟩ } :=
  next_of_answers (by decide)

/-- V-C-11 -/
theorem test_jpV0_not_reduced : (State.stepped (withRegs (start 0xBFFF) [(0, 0xFF)])).pc = 0x10FE := by decide

/-- V-C-10 -/
theorem test_jpV0 : (State.stepped (withRegs (start 0xB210) [(0, 0x04)])).pc = 0x0214 := by decide

/-- V-C-12, V-C-13 -/
theorem test_seI :
    (State.stepped (withRegs (start 0x3311) [(3, 0x11)])).pc = 0x204 ∧
      (State.stepped (withRegs (start 0x3311) [(3, 0x10)])).pc = 0x202 := by decide

/-- V-C-14, V-C-15 -/
theorem test_sneI :
    (State.stepped (withRegs (start 0x4311) [(3, 0x10)])).pc = 0x204 ∧
      (State.stepped (withRegs (start 0x4311) [(3, 0x11)])).pc = 0x202 := by decide

/-- V-C-16, V-C-17 -/
theorem test_seR :
    (State.stepped (withRegs (start 0x5120) [(1, 7), (2, 7)])).pc = 0x204 ∧
      (State.stepped (withRegs (start 0x5120) [(1, 7), (2, 8)])).pc = 0x202 := by decide

/-- V-C-19, V-C-20 -/
theorem test_sneR :
    (State.stepped (withRegs (start 0x9120) [(1, 7), (2, 8)])).pc = 0x204 ∧
      (State.stepped (start 0x9440)).pc = 0x202 := by decide

/-- V-C-21: the skipped word is not decoded. -/
theorem test_skip_over_illegal : (State.stepped (withMem State.reset 0x200 [0x30, 0x00, 0xFF, 0xFF])).pc = 0x204 := by decide

/-! ## Arithmetic -/

/-- V-A-1, V-A-2 -/
theorem test_ldI :
    (State.stepped (start 0x6A55)).reg 10 = 0x55 ∧ (State.stepped (start 0x6F07)).reg VF = 0x07 := by decide

/-- V-A-3, V-A-4 -/
theorem test_addI :
    (State.stepped (withRegs (start 0x7001) [(0, 0xFF)])).reg 0 = 0x00 ∧
      (State.stepped (withRegs (start 0x7001) [(0, 0xFF)])).reg VF = 0 ∧
      (State.stepped (withRegs (start 0x70FF) [(0, 0x05)])).reg 0 = 0x04 := by decide

/-- V-A-5 -/
theorem test_ldR : (State.stepped (withRegs (start 0x8010) [(1, 0x5A)])).reg 0 = 0x5A := by decide

/-- V-A-6 -/
theorem test_or :
    (State.stepped (withRegs (start 0x8011) [(0, 0xF0), (1, 0x0F), (VF, 0x77)])).reg 0 = 0xFF ∧
      (State.stepped (withRegs (start 0x8011) [(0, 0xF0), (1, 0x0F), (VF, 0x77)])).reg VF = 0x77 := by decide

/-- V-A-7 -/
theorem test_and :
    (State.stepped (withRegs (start 0x8012) [(0, 0xF3), (1, 0x3F), (VF, 0x77)])).reg 0 = 0x33 ∧
      (State.stepped (withRegs (start 0x8012) [(0, 0xF3), (1, 0x3F), (VF, 0x77)])).reg VF = 0x77 := by decide

/-- V-A-8, V-A-9 -/
theorem test_xor :
    (State.stepped (withRegs (start 0x8013) [(0, 0xFF), (1, 0x0F), (VF, 0x77)])).reg 0 = 0xF0 ∧
      (State.stepped (withRegs (start 0x8223) [(2, 0xAA)])).reg 2 = 0x00 := by decide

/-- V-A-11, V-A-13 -/
theorem test_addR :
    (State.stepped (withRegs (start 0x8014) [(0, 0xFF), (1, 0x01)])).V = (State.reset.V.set 1 0x01).set 15 1 ∧
      (State.stepped (withRegs (start 0x8014) [(0, 0x7F), (1, 0x80)])).reg VF = 0 := by decide

/-- V-A-15, V-A-17: VF as the destination holds the flag; VF as a source is its old value. -/
theorem test_addR_vf :
    (State.stepped (withRegs (start 0x8F14) [(VF, 0xFF), (1, 0x01)])).reg VF = 1 ∧
      (State.stepped (withRegs (start 0x80F4) [(0, 0x01), (VF, 0xFF)])).reg 0 = 0x00 ∧
      (State.stepped (withRegs (start 0x80F4) [(0, 0x01), (VF, 0xFF)])).reg VF = 1 := by decide

/-- V-A-18, V-A-19 -/
theorem test_sub :
    (State.stepped (withRegs (start 0x8015) [(0, 0x05), (1, 0x05)])).reg VF = 1 ∧
      (State.stepped (withRegs (start 0x8015) [(0, 0x00), (1, 0x01)])).reg 0 = 0xFF ∧
      (State.stepped (withRegs (start 0x8015) [(0, 0x00), (1, 0x01)])).reg VF = 0 := by decide

/-- V-A-22 -/
theorem test_sub_vf : (State.stepped (withRegs (start 0x8F15) [(VF, 0x07), (1, 0x05)])).reg VF = 1 := by decide

/-- V-A-23, V-A-24 -/
theorem test_subn :
    (State.stepped (withRegs (start 0x8017) [(0, 0x05), (1, 0x03)])).reg 0 = 0xFE ∧
      (State.stepped (withRegs (start 0x8017) [(0, 0x05), (1, 0x03)])).reg VF = 0 ∧
      (State.stepped (withRegs (start 0x8017) [(0, 0x03), (1, 0x05)])).reg 0 = 0x02 := by decide

/-- V-A-26 -/
theorem test_shr :
    (State.stepped (withRegs (start 0x8016) [(0, 0x03), (1, 0xEE)])).V = ((State.reset.V.set 0 0x01).set 1 0xEE).set 15 1 := by
  decide

/-- V-A-30, both settings of SHIFT_VF_ALIAS, through the operation the meaning calls. -/
theorem test_shr_vf :
    ((withRegs State.reset [(VF, 0x03)]).setShift .flagLast VF (fun b => b >>> 1) (lowBitFlag 0x03)).reg VF = 1 ∧
      ((withRegs State.reset [(VF, 0x03)]).setShift .resultLast VF (fun b => b >>> 1) (lowBitFlag 0x03)).reg VF = 0 := by
  decide

/-- V-A-31 -/
theorem test_shl :
    (State.stepped (withRegs (start 0x801E) [(0, 0x81), (1, 0xEE)])).V = ((State.reset.V.set 0 0x02).set 1 0xEE).set 15 1 := by
  decide

/-- V-A-34, both settings. -/
theorem test_shl_vf :
    ((withRegs State.reset [(VF, 0x81)]).setShift .flagLast VF (fun b => b <<< 1) (highBitFlag 0x81)).reg VF = 1 ∧
      ((withRegs State.reset [(VF, 0x81)]).setShift .resultLast VF (fun b => b <<< 1) (highBitFlag 0x81)).reg VF = 2 := by
  decide

/-- V-A-36 -/
theorem test_rnd : (afterEvent (.step 0xAB) (start 0xC00F)).reg 0 = 0x0B := by decide

/-- V-A-37, with the free value: nothing is injected. -/
theorem test_rnd_masked : (State.stepped (start 0xC000)).reg 0 = 0x00 := by
  show Config.draw 0 &&& 0 = 0
  exact BitVec.and_zero

/-! ## Display -/

/-- V-CLS-1 -/
theorem test_cls : step (withCells (start 0x00E0) [0]) = .next { start 0x00E0 with pc := 0x202 } := next_of_answers (by decide)

/-- V-D-3: the sprite wraps to column 0 of the same row. -/
theorem test_drw_wraps :
    cellsOn (State.stepped (withMem (withRegs { start 0xD011 with I := 0x300 } [(0, 60)]) 0x300 [0xFF])) =
      [0, 1, 2, 3, 60, 61, 62, 63] := by decide +kernel

/-- V-D-11: one cell on, one off under the sprite. -/
theorem test_drw_collides :
    cellsOn (State.stepped (withCells (withMem { start 0xD011 with I := 0x300 } 0x300 [0xC0]) [0])) = [1] ∧
      (State.stepped (withCells (withMem { start 0xD011 with I := 0x300 } 0x300 [0xC0]) [0])).reg VF = 1 := by
  decide +kernel

/-! ## Index and memory -/

/-- V-I-2 -/
theorem test_ldIdx : (State.stepped (start 0xAFFF)).I = 0x0FFF := by decide

/-- V-I-4, V-I-5 -/
theorem test_addIdx :
    (State.stepped (withRegs { start 0xF01E with I := 0x0FFF } [(0, 1)])).I = 0x1000 ∧
      (State.stepped (withRegs { start 0xF01E with I := 0xFFFF } [(0, 2)])).I = 0x0001 := by decide

/-- V-I-7, V-I-10 -/
theorem test_ldF :
    (State.stepped (withRegs (start 0xF029) [(0, 0x0A)])).I = 0x0032 ∧
      (State.stepped (withRegs (start 0xF029) [(0, 0xFF)])).I = 0x04FB := by decide

/-- V-B-7, V-B-9 -/
theorem test_ldB :
    bytesAt (State.stepped (withRegs { start 0xF033 with I := 0x300 } [(0, 254)])) 0x300 3 = [2, 5, 4] ∧
      bytesAt (State.stepped (withRegs { start 0xF033 with I := 0xFFD } [(0, 123)])) 0xFFD 3 = [1, 2, 3] := by decide

/-- V-B-10 -/
theorem test_ldB_fault :
    step (withRegs { start 0xF033 with I := 0xFFE } [(0, 123)]) =
      .next { withRegs { start 0xF033 with I := 0xFFE } [(0, 123)] with fault := ⟨.memOutOfBounds, 0xF033, 0x0200⟩ } :=
  next_of_answers (by decide)

/-- V-M-1 -/
theorem test_stRegs :
    bytesAt (State.stepped (withRegs { start 0xF355 with I := 0x400 } [(0, 0x11), (1, 0x22), (2, 0x33), (3, 0x44), (4, 0x55)]))
      0x400 5 = [0x11, 0x22, 0x33, 0x44, 0x00] := by decide

/-- V-M-5 -/
theorem test_stRegs_bound :
    (State.stepped { start 0xF355 with I := 0xFFD }).fault.cause = .memOutOfBounds ∧
      (State.stepped { start 0xF255 with I := 0xFFD }).fault.cause = .noFault := by decide

/-- V-M-6 -/
theorem test_ldRegs :
    (State.stepped (withMem (withRegs { start 0xF265 with I := 0x400 } [(3, 0x99)]) 0x400 [0x02, 0x05, 0x04])).V =
      (((State.reset.V.set 0 2).set 1 5).set 2 4).set 3 0x99 := by decide

/-- V-M-8 -/
theorem test_ldRegs_fault :
    (State.stepped { start 0xF065 with I := 0x1000 }).fault = ⟨.memOutOfBounds, 0xF065, 0x0200⟩ := by decide

/-! ## Keys and timers -/

/-- V-K-1, V-K-2 -/
theorem test_skp :
    (State.stepped (withRegs ((start 0xE09E).setKeyFlag 3 true) [(0, 3)])).pc = 0x204 ∧
      (State.stepped (withRegs (start 0xE09E) [(0, 3)])).pc = 0x202 := by decide

/-- V-K-5 -/
theorem test_skp_fault :
    (State.stepped (withRegs (start 0xE09E) [(0, 16)])).fault = ⟨.keyIndexOutOfRange, 0xE09E, 0x0200⟩ := by decide

/-- V-K-3, V-K-4 -/
theorem test_sknp :
    (State.stepped (withRegs (start 0xE0A1) [(0, 3)])).pc = 0x204 ∧
      (State.stepped (withRegs ((start 0xE0A1).setKeyFlag 3 true) [(0, 3)])).pc = 0x202 := by decide

/-- V-K-6 -/
theorem test_sknp_fault :
    (State.stepped (withRegs (start 0xE0A1) [(0, 0xFF)])).fault = ⟨.keyIndexOutOfRange, 0xE0A1, 0x0200⟩ := by decide

/-- V-K-7 -/
theorem test_ldVxK_waits : step (start 0xF10A) = .next (start 0xF10A) := next_of_answers (by decide)

/-- V-K-8 -/
theorem test_ldVxK_takes_lowest :
    (State.stepped (((start 0xF10A).setKeyFlag 7 true).setKeyFlag 3 true)).reg 1 = 3 ∧
      (State.stepped (((start 0xF10A).setKeyFlag 7 true).setKeyFlag 3 true)).pc = 0x202 := by decide

/-- V-T-1 -/
theorem test_ldVxDt : (State.stepped { start 0xF207 with DT := 2 }).reg 2 = 2 := by decide

/-- V-T-2 -/
theorem test_ldDtVx : (State.stepped (withRegs (start 0xF115) [(1, 3)])).DT = 3 := by decide

/-- V-T-3 -/
theorem test_ldStVx : (State.stepped (withRegs (start 0xF018) [(0, 1)])).ST = 1 := by decide

/-! ## Events -/

/-- V-T-4, V-T-6 -/
theorem test_tick :
    afterEvent .tickTimers State.reset = State.reset ∧
      afterEvent .tickTimers { State.reset with DT := 4, ST := 1 } = { State.reset with DT := 3 } ∧
      State.toneStop { State.reset with DT := 4, ST := 1 } = true ∧ State.toneStop { State.reset with ST := 2 } = false := by
  decide

/-- V-K-11, V-K-12 -/
theorem test_setKey :
    (afterEvent (.setKey 5 true) State.reset).keys = State.reset.keys.set 5 true ∧
      afterEvent (.setKey 16 true) State.reset = State.reset := by decide

/-- V-L-3 -/
theorem test_loadProgram :
    bytesAt (afterEvent (.loadProgram [0xB0, 0xB1]) (afterEvent (.loadProgram [1, 2, 3, 4, 5, 6]) State.reset)) 0x200 7 =
      [0xB0, 0xB1, 3, 4, 5, 6, 0] := by decide

/-- V-R-1 -/
theorem test_reset : afterEvent .reset { start 0x00EE with fault := ⟨.stackUnderflow, 0x00EE, 0x0200⟩ } = State.reset := by
  decide

/-- V-T-10 -/
theorem test_coincident :
    (match runEvents (requestEvents ⟨false, none, none, true, some 0⟩) { start 0xF207 with DT := 5 } with
      | .next t => t.reg 2
      | .fault _ | .refused _ => 0) = 4 := by decide

/-- The font of R20 reads at 0x000 to 0x04F (V-M-7, default FONT). -/
theorem test_font : bytesAt State.reset 0 5 = [0xF0, 0x90, 0x90, 0x90, 0xF0] := by decide

/-! ## Witnesses: concrete states and operands that meet the hypotheses of each statement of Obligations.lean -/

theorem witness_DecodeOfEncodeIsTheInstruction : (Instr.drw 15 15 15).WellFormed ∧ (Instr.ldRegs 15).WellFormed := by decide

theorem witness_EncodeOfDecodedWordIsTheWord : decodeWord 0xDFFF = .ok (.drw 15 15 15) := by decide

theorem witness_DecoderFollowsTheOpcodeTable :
    decodeWord 0x00E0 = .ok .cls ∧ ∀ r ∈ opcodeTable, (0x00E1 : Word) &&& r.mask ≠ r.code := by decide

theorem witness_FetchIsBigEndianAtAnyAlignment :
    Memory.fetchWord [(4094, 0x12), (4095, 0x34)] 4094 = some 0x1234 ∧ Memory.fetchWord [] 4095 = none := by decide

theorem witness_StepRunsTheDecodedInstruction :
    let s := { State.reset with pc := 0x0FFE }
    s.fault.cause = .noFault ∧ s.pc.toNat + 1 < 4096 ∧
      decodeWord (bytesToWord (s.mem.get s.pc.toNat) (s.mem.get (s.pc.toNat + 1))) = .ok .nop := by decide

theorem witness_FetchPastTheEndLatchesMemOutOfBounds :
    let s := { State.reset with pc := 0x0FFF }
    s.fault.cause = .noFault ∧ 4095 ≤ s.pc.toNat := by decide

theorem witness_IllegalOpcodeLatchesTheRawOpcode :
    (start 0x8008).fault.cause = .noFault ∧ (start 0x8008).mem.fetchWord (start 0x8008).pc.toNat = some 0x8008 ∧
      ∀ r ∈ opcodeTable, (0x8008 : Word) &&& r.mask ≠ r.code := by decide

theorem witness_FaultedCoreIsQuiescent :
    (State.stepped (start 0x00EE)).fault.cause = .stackUnderflow ∧ (State.stepped (start 0x00EE)).fault.cause ≠ .noFault := by
  decide

theorem witness_FaultCausesAreThoseOfTheTable_fetch :
    let s := { State.reset with pc := 0x0FFF }
    s.fault.cause = .noFault ∧ step s = .next (State.stepped s) ∧ (State.stepped s).fault.cause = .memOutOfBounds :=
  ⟨by decide, next_of_answers (by decide), by decide⟩

theorem witness_FaultCausesAreThoseOfTheTable_drw :
    let s := { start 0xD012 with I := 0x0FFF }
    s.fetch = .instr (.drw 0 1 2) ∧ 4096 ≤ s.I.toNat + 2 - 1 ∧ (State.stepped s).fault.cause = .memOutOfBounds := by decide

theorem witness_FaultCausesAreThoseOfTheTable_block :
    let s := { start 0xF155 with I := 0x0FFF }
    s.fetch = .instr (.stRegs 1) ∧ 4096 ≤ s.I.toNat + 1 ∧ (State.stepped s).fault.cause = .memOutOfBounds := by decide

theorem witness_FaultCausesAreThoseOfTheTable_bcd :
    let s := { start 0xF133 with I := 0x0FFE }
    s.fetch = .instr (.ldB 1) ∧ 4096 ≤ s.I.toNat + 2 ∧ (State.stepped s).fault.cause = .memOutOfBounds := by decide

theorem witness_FaultCausesAreThoseOfTheTable_stack :
    let s := { start 0x2345 with sp := 16 }
    s.fetch = .instr (.call 0x345) ∧ s.sp = 16 ∧ (start 0x00EE).fetch = .instr .ret ∧ (start 0x00EE).sp = 0 := by decide

theorem witness_FaultCausesAreThoseOfTheTable_key :
    let s := withRegs (start 0xE1A1) [(1, 16)]
    s.fetch = .instr (.sknp 1) ∧ 15 < (s.reg 1).toNat ∧ (State.stepped s).fault.cause = .keyIndexOutOfRange := by decide

theorem witness_FaultCausesAreThoseOfTheTable_none :
    (start 0x0000).fault.cause = .noFault ∧ step (start 0x0000) = .next (State.stepped (start 0x0000)) ∧
      (State.stepped (start 0x0000)).fault.cause = .noFault := ⟨by decide, next_of_answers (by decide), by decide⟩

/-- A state with a program in memory meets the invariant. -/
theorem start_inv : (start 0x6A55).Inv := ⟨by decide, by decide, by decide, rfl⟩

theorem witness_StepKeepsTheInvariant :
    (start 0x6A55).Inv ∧ step (start 0x6A55) = .next (State.stepped (start 0x6A55)) :=
  ⟨start_inv, next_of_answers (by decide)⟩

/-- The invariant also meets a faulted state: a step from it is the identity. -/
theorem witness_StepKeepsTheInvariant_faulted :
    (State.stepped (start 0x00EE)).Inv ∧ step (State.stepped (start 0x00EE)) = .next (State.stepped (start 0x00EE)) :=
  ⟨⟨by decide, by decide, by decide, ⟨by decide, by decide, by decide⟩⟩, next_of_answers (by decide)⟩

theorem witness_EveryEventKeepsTheInvariant :
    (start 0x6A55).Inv ∧
      ∀ e ∈ [Event.reset, .loadProgram [0xFF], .setKey 15 true, .tickTimers, .step 0xAB],
        e.apply (start 0x6A55) = .next (afterEvent e (start 0x6A55)) := by
  refine ⟨start_inv, fun e he => next_of_answers ?_⟩
  revert e
  decide

theorem witness_InstructionsWriteOnlyWhatTheAccessMatrixNames_mem :
    let s := withRegs (start 0xF033) [(0, 123)]
    exec (.ldB 0) s = .next (State.stepped s) ∧ ¬ Part.mem.Same s (State.stepped s) :=
  ⟨next_of_answers (by decide), fun h => absurd (h 0) (by decide)⟩

theorem witness_InstructionsWriteOnlyWhatTheAccessMatrixNames_regs :
    exec (.ldI 10 0x55) (start 0x6A55) = .next (State.stepped (start 0x6A55)) ∧
      ¬ Part.regs.Same (start 0x6A55) (State.stepped (start 0x6A55)) :=
  ⟨next_of_answers (by decide), fun h => absurd (h 10) (by decide)⟩

theorem witness_InstructionsWriteOnlyWhatTheAccessMatrixNames_stack :
    let s := start 0x2345
    exec (.call 0x345) s = .next (State.stepped s) ∧ (State.stepped s).stack ≠ s.stack ∧ (State.stepped s).sp ≠ s.sp :=
  ⟨next_of_answers (by decide), by decide, by decide⟩

theorem witness_InstructionsWriteOnlyWhatTheAccessMatrixNames_index_fb_timers :
    ¬ Part.index.Same (start 0xAFFF) (State.stepped (start 0xAFFF)) ∧
      ¬ Part.fb.Same (withCells (start 0x00E0) [0]) (State.stepped (withCells (start 0x00E0) [0])) ∧
      ¬ Part.dt.Same (withRegs (start 0xF115) [(1, 3)]) (State.stepped (withRegs (start 0xF115) [(1, 3)])) ∧
      ¬ Part.st.Same (withRegs (start 0xF018) [(0, 1)]) (State.stepped (withRegs (start 0xF018) [(0, 1)])) := by
  simp only [Part.Same]; decide

theorem witness_VfIsAFlagOfExactlySixInstructions :
    let s := withRegs (start 0x8014) [(0, 0xFF), (1, 0x01)]
    exec (.addR 0 1) s = .next (State.stepped s) ∧ (State.stepped s).reg VF ≠ s.reg VF ∧
      (Instr.addR 0 1).mnemonic ∈ flagWriters ∧ Config.shiftVfAlias = .flagLast :=
  ⟨next_of_answers (by decide), by decide, by decide, by decide⟩

theorem witness_VfIsAFlagOfExactlySixInstructions_named :
    exec (.ldI VF 0x07) (start 0x6F07) = .next (State.stepped (start 0x6F07)) ∧
      (State.stepped (start 0x6F07)).reg VF ≠ (start 0x6F07).reg VF ∧ Instr.namesVF (.ldI VF 0x07) :=
  ⟨next_of_answers (by decide), by decide, rfl⟩

theorem witness_OnlyRndReadsTheDraw :
    (∀ x nn, (start 0x6A55).fetch ≠ .instr (.rnd x nn)) ∧ step (start 0x6A55) = .next (State.stepped (start 0x6A55)) := by
  refine ⟨fun x nn h => ?_, next_of_answers (by decide)⟩
  rw [show (start 0x6A55).fetch = .instr (.ldI 10 0x55) by decide] at h
  cases h

theorem witness_NoInstructionReadsTheSoundTimer :
    step (start 0xF618) = .next (State.stepped (start 0xF618)) ∧ ∃ x, (start 0xF618).fetch = .instr (.ldStVx x) :=
  ⟨next_of_answers (by decide), 6, by decide⟩

theorem witness_NoInstructionReadsTheSoundTimer_other :
    step (start 0x6A55) = .next (State.stepped (start 0x6A55)) ∧ ∀ x, (start 0x6A55).fetch ≠ .instr (.ldStVx x) := by
  refine ⟨next_of_answers (by decide), fun x h => ?_⟩
  rw [show (start 0x6A55).fetch = .instr (.ldI 10 0x55) by decide] at h
  cases h

theorem witness_RetPopsThePcOrUnderflows :
    ({ State.reset with sp := 1 } : State).sp.val = (0 : Fin 16).val + 1 ∧
      ({ State.reset with sp := 16 } : State).sp.val = (15 : Fin 16).val + 1 ∧ State.reset.sp.val = 0 := by decide

/-- A state that meets the invariant with an entry on the stack. -/
theorem witness_RetPopsThePcOrUnderflows_inv :
    ({ State.reset with sp := 1, stack := State.reset.stack.set 0 0x1000 } : State).Inv :=
  ⟨by decide, by decide, by decide, rfl⟩

theorem witness_JpLoadsThePc : State.reset.pc.toNat = (0x200 : Addr12).toNat := by decide

theorem witness_CallPushesAndJumpsOrOverflows :
    State.reset.sp.val = (0 : Fin 16).val ∧ ({ State.reset with sp := 15 } : State).sp.val = (15 : Fin 16).val ∧
      ({ State.reset with sp := 16 } : State).sp.val = 16 := by decide

theorem witness_ZeroedMemoryIsWalkedToTheEnd :
    State.reset.fault.cause = .noFault ∧ State.reset.pc.toNat + 2 * 1792 = 4096 ∧
      ∀ a, State.reset.pc.toNat ≤ a → a < 4096 → State.reset.mem.get a = 0 := by
  refine ⟨rfl, rfl, fun a h _ => ?_⟩
  have h' : ¬ a < 80 := Nat.not_lt.2 (Nat.le_trans (by decide) h)
  exact if_neg h'

theorem witness_ZeroedMemoryIsWalkedToTheEnd_at_the_end :
    let s := { State.reset with pc := 0x1000 }
    s.fault.cause = .noFault ∧ s.pc.toNat + 2 * 0 = 4096 := by decide

theorem witness_EndedProgramStaysEnded : (start 0x1200).Ended := ⟨0x200, by decide, rfl⟩

theorem witness_RndMasksTheDraw : (start 0xC53C).fetch = .instr (.rnd 5 0x3C) := by decide

/-- Both clauses of the collision at the boundary of the height and of memory: the sprite of 15 rows that ends at 4095. -/
theorem witness_DrwXorsTheSpriteOrFaults :
    (15 < 16 ∧ ({ State.reset with I := 4081 } : State).I.toNat + 15 - 1 < 4096) ∧
      0 < 16 ∧ ∃ i, ¬ UnderSprite State.reset 0 1 0 i :=
  ⟨by decide, by decide, 0, fun ⟨_, _, h, _⟩ => absurd h (Nat.not_lt_zero _)⟩

/-- A cell under the sprite: the font's first row at I = 0, drawn at (0, 0). -/
theorem under_font_row : UnderSprite State.reset 0 1 1 0 := ⟨0, 0, by decide, by decide, by decide, rfl⟩

theorem witness_DrwXorsTheSpriteOrFaults_hit :
    ∃ i, UnderSprite (withCells State.reset [0]) 0 1 1 i ∧ FrameBuffer.cell (withCells State.reset [0]).fb i = true :=
  ⟨0, ⟨0, 0, by decide, by decide, by decide, rfl⟩, by decide⟩

theorem witness_DrwXorsTheSpriteOrFaults_miss :
    (∀ i, UnderSprite State.reset 0 1 1 i → FrameBuffer.cell State.reset.fb i = false) ∧
      ∃ i, UnderSprite State.reset 0 1 1 i :=
  ⟨fun i _ => (by decide +kernel : ∀ i, FrameBuffer.cell State.reset.fb i = false) i, 0, under_font_row⟩

theorem witness_DrwXorsTheSpriteOrFaults_out_of_memory :
    15 < 16 ∧ 1 ≤ 15 ∧ 4096 ≤ ({ State.reset with I := 4082 } : State).I.toNat + 15 - 1 := by decide

theorem witness_DrawingTwiceRestoresTheFramebuffer :
    5 < 16 ∧ State.reset.I.toNat + 5 - 1 < 4096 ∧ (0 : Reg) ≠ VF ∧ (1 : Reg) ≠ VF := by decide

/-- Both values of VF after the second drawing occur: the first drawing turned a cell on, or none. -/
theorem witness_DrawingTwiceRestoresTheFramebuffer_collision :
    (∃ i, UnderSprite State.reset 0 1 1 i ∧ FrameBuffer.cell State.reset.fb i = false) ∧
      ∀ i, UnderSprite State.reset 0 1 0 i → FrameBuffer.cell State.reset.fb i = true :=
  ⟨⟨0, under_font_row, by decide⟩, fun _ ⟨_, _, h, _⟩ => absurd h (Nat.not_lt_zero _)⟩

theorem witness_BcdStoresThreeDigits :
    ({ State.reset with I := 4093 } : State).I.toNat + 2 < 4096 ∧
      4096 ≤ ({ State.reset with I := 4094 } : State).I.toNat + 2 := by decide

theorem witness_RegisterBlockStore :
    ({ State.reset with I := 4080 } : State).I.toNat + (15 : Reg).val < 4096 ∧
      4096 ≤ ({ State.reset with I := 4081 } : State).I.toNat + (15 : Reg).val := by decide

theorem witness_RegisterBlockLoad :
    ({ State.reset with I := 4095 } : State).I.toNat + (0 : Reg).val < 4096 ∧
      4096 ≤ ({ State.reset with I := 4096 } : State).I.toNat + (0 : Reg).val := by decide

theorem witness_StoredRegistersAreFetchedNext :
    let s := { State.reset with I := 4080 }
    s.I.toNat + (15 : Reg).val < 4096 ∧ (15 : Reg).val = (14 : Reg).val + 1 ∧ (15 : Reg).val ≤ (15 : Reg).val := by decide

theorem witness_KeySkipsTestTheKeyOrFault :
    ((withRegs State.reset [(1, 15)]).reg 1).toNat = (15 : Fin 16).val ∧ 15 < ((withRegs State.reset [(1, 16)]).reg 1).toNat := by
  decide

theorem witness_KeyWaitTakesTheLowestPressedKey :
    (∀ k : Fin 16, State.reset.keys[k] = false) ∧
      let s := (State.reset.setKeyFlag 15 true).setKeyFlag 3 true
      s.keys[(3 : Fin 16)] = true ∧ ∀ j : Fin 16, j < 3 → s.keys[j] = false := by decide

theorem witness_KeyWaitEndsOnlyByTheHost :
    (start 0xF30A).fetch = .instr (.ldVxK 3) ∧ ∀ j : Fin 16, (start 0xF30A).keys[j] = false := by decide

/-- The conclusion of KeyWaitEndsOnlyByTheHost speaks of waiting states; there is one. -/
theorem witness_Waiting : (start 0xF30A).Waiting := ⟨3, by decide, by decide⟩

theorem witness_TimerAccess : State.reset.fault.cause = .noFault := by decide

theorem witness_TickDecrementsBothTimers :
    ({ State.reset with DT := 255, ST := 1 } : State).fault.cause = .noFault ∧
      State.toneStop { State.reset with DT := 255, ST := 1 } = true := by decide

theorem witness_LoadProgramCopiesTheImage :
    State.reset.fault.cause = .noFault ∧ (List.replicate 3584 (0 : Byte)).length ≤ 3584 ∧
      3584 < (List.replicate 3585 (0 : Byte)).length :=
  ⟨rfl, by rw [List.length_replicate], by rw [List.length_replicate]; decide⟩

theorem witness_SetKeySetsOneFlag : State.reset.fault.cause = .noFault ∧ 16 ≤ 16 := by decide

/-- R217, R221: an index is accepted up to 15 and rejected from 16. -/
theorem test_rejected : (Event.setKey 15 true).rejected = false ∧ (Event.setKey 16 true).rejected = true := by decide

theorem witness_CoincidentStepSeesTheTick :
    (start 0xF207).fetch = .instr (.ldVxDt 2) ∧ (start 0xF115).fetch = .instr (.ldDtVx 1) := by decide

theorem witness_LoadBurstIsLoadProgram : (List.replicate 3584 (0 : Byte)).length ≤ 3584 := by
  rw [List.length_replicate]

/-- The single strobe, at the last offset that is stored and the first that is ignored, and in a faulted state. -/
theorem witness_LoadBurstIsLoadProgram_strobe :
    State.reset.fault.cause = .noFault ∧ (3583 : Addr12).toNat < 3584 ∧ 3584 ≤ (3584 : Addr12).toNat ∧
      (State.stepped (start 0x00EE)).fault.cause ≠ .noFault := by decide

/-- R223: an edge with every strobe: the byte of the load stands in the reset memory, and the step that follows in the
same edge runs the word it completes (0xE0 and the zero after it: 0xE000, illegal). -/
theorem test_edge_with_load :
    (match clockEdge ⟨true, true, 0xAB, true, true, 15, true, true, 0, 0xE0, 0⟩ State.reset with
      | .next t => (t.mem.get 0x200, t.keys[15], t.fault.opcode)
      | .fault _ | .refused _ => (0, false, 0)) = (0xE0, true, 0xE000) := by decide

theorem witness_DigitsAndImagesAreFetchedNext :
    ({ State.reset with I := 4093 } : State).I.toNat + 2 < 4096 ∧ State.reset.fault.cause = .noFault ∧
      0 + 1 < [0x12, 0x34].length ∧ [0x12, 0x34].length ≤ 3584 := by decide

/-- The last pair of the longest image. -/
theorem witness_DigitsAndImagesAreFetchedNext_longest :
    3582 + 1 < (List.replicate 3584 (0 : Byte)).length ∧ (List.replicate 3584 (0 : Byte)).length ≤ 3584 :=
  ⟨by rw [List.length_replicate]; decide, by rw [List.length_replicate]⟩

end Sys2Proof.Tests
end

/-!
## The state: what an instruction does to it, the invariant, and who reads and writes which part

An `Effect` is one of the few ways in which an instruction changes the state. That `exec` has no other
(`effect_of_exec`) is proved once, by the 35 instructions; the invariant, the access matrix and the rules of VF are then
read off the effects.
-/

section

namespace Sys2Proof.Machine

/-! ### Words and their bounds -/

theorem addrWord_toNat (nnn : Addr12) : (addrWord nnn).toNat = nnn.toNat := by
  simp only [addrWord, BitVec.toNat_setWidth]
  omega

theorem byteWord_toNat (b : Byte) : (byteWord b).toNat = b.toNat := by
  simp only [byteWord, BitVec.toNat_setWidth]
  omega

/-- The bound of 10_state.md R14: the largest byte plus the largest address. -/
theorem byteWord_add_addrWord_le (b : Byte) (nnn : Addr12) : (byteWord b + addrWord nnn).toNat ≤ 0x10FE := by
  have := b.isLt
  have := nnn.isLt
  rw [BitVec.toNat_add, byteWord_toNat, addrWord_toNat]
  omega

theorem State.regsUpTo_length (s : State) (x : Reg) : (s.regsUpTo x).length = x.val + 1 := by
  simp only [State.regsUpTo, List.length_take, Vector.length_toList]
  omega

theorem flagByte_le_one (c : Bool) : (flagByte c).toNat ≤ 1 := by
  cases c <;> decide

theorem lowBitFlag_le_one (a : Byte) : (lowBitFlag a).toNat ≤ 1 := by
  rw [lowBitFlag_toNat]
  omega

theorem highBitFlag_le_one (a : Byte) : (highBitFlag a).toNat ≤ 1 := by
  have := a.isLt
  rw [highBitFlag_toNat]
  omega

/-! ### The fields after the two writes of a shift -/

section
variable (s : State) (o : ShiftVfAlias) (x : Reg) (g : Byte → Byte) (b : Byte)

@[simp] theorem State.setShift_mem : (s.setShift o x g b).mem = s.mem := by cases o <;> rfl
@[simp] theorem State.setShift_I : (s.setShift o x g b).I = s.I := by cases o <;> rfl
@[simp] theorem State.setShift_pc : (s.setShift o x g b).pc = s.pc := by cases o <;> rfl
@[simp] theorem State.setShift_stack : (s.setShift o x g b).stack = s.stack := by cases o <;> rfl
@[simp] theorem State.setShift_sp : (s.setShift o x g b).sp = s.sp := by cases o <;> rfl
@[simp] theorem State.setShift_keys : (s.setShift o x g b).keys = s.keys := by cases o <;> rfl
@[simp] theorem State.setShift_fb : (s.setShift o x g b).fb = s.fb := by cases o <;> rfl
@[simp] theorem State.setShift_DT : (s.setShift o x g b).DT = s.DT := by cases o <;> rfl
@[simp] theorem State.setShift_ST : (s.setShift o x g b).ST = s.ST := by cases o <;> rfl
@[simp] theorem State.setShift_fault : (s.setShift o x g b).fault = s.fault := by cases o <;> rfl

end

/-! ### The decoder, where a fault record names an opcode -/

theorem decodeWord_call (nnn : Addr12) : decodeWord (encode (.call nnn)) = .ok (.call nnn) := by
  simp [decodeWord, encode, nibble1_formA, fieldNNN_formA]

theorem decodeWord_skp (x : Reg) : decodeWord (encode (.skp x)) = .ok (.skp x) := by
  simp [decodeWord, decodeKey, encode, nibble1_formXB, fieldX_formXB, fieldNN_formXB]

theorem decodeWord_sknp (x : Reg) : decodeWord (encode (.sknp x)) = .ok (.sknp x) := by
  simp [decodeWord, decodeKey, encode, nibble1_formXB, fieldX_formXB, fieldNN_formXB]

section
variable {w : Word} {e : DecodeError}

theorem decodeSystem_error (h : decodeSystem w = .error e) : e = .illegalOpcode w := by
  unfold decodeSystem at h
  split_ifs at h
  exact (Except.error.inj h).symm

theorem decodeIfN4Zero_error {i : Instr} (h : decodeIfN4Zero w i = .error e) : e = .illegalOpcode w := by
  unfold decodeIfN4Zero at h
  split_ifs at h
  exact (Except.error.inj h).symm

theorem decodeAlu_error (h : decodeAlu w = .error e) : e = .illegalOpcode w := by
  unfold decodeAlu at h
  split at h <;> cases h
  rfl

theorem decodeKey_error (h : decodeKey w = .error e) : e = .illegalOpcode w := by
  unfold decodeKey at h
  split at h <;> cases h
  rfl

theorem decodeMisc_error (h : decodeMisc w = .error e) : e = .illegalOpcode w := by
  unfold decodeMisc at h
  split at h <;> cases h
  rfl

/-- The one reason for which a word is no instruction (30_encoding.md R70). -/
theorem decodeWord_error (h : decodeWord w = .error e) : e = .illegalOpcode w := by
  unfold decodeWord at h
  split at h
  case h_1 => exact decodeSystem_error h
  case h_6 | h_10 => exact decodeIfN4Zero_error h
  case h_9 => exact decodeAlu_error h
  case h_15 => exact decodeKey_error h
  case h_16 => exact decodeMisc_error h
  -- The other groups decode every word.
  all_goals cases h

end

/-! ### The effects of the instructions -/

/-- The instructions whose only result is one register; RND stands apart, since it uses up a draw. -/
def regWriters : List String := ["LD_I", "ADD_I", "LD_R", "OR", "AND", "XOR", "LD_VX_DT", "LD_VX_K"]

/-- The instructions that set `I`. -/
def indexWriters : List String := ["LD_IDX", "ADD_IDX", "LD_F"]

/-- The instructions that write memory. -/
def storeWriters : List String := ["LD_B", "ST_REGS"]

/-- `Effect s i t`: the instruction `i` may take `s` to `t`. One constructor per way of changing the state, with what
the invariant and the access matrix ask of it: the bound of a new `pc`, the range of a flag, the span of a store, the
record of a fault. -/
inductive Effect (s : State) : Instr → State → Prop
  | jump {i w} (hi : i.mnemonic ∉ flagWriters)
      (hw : s.pc.toNat + 1 < Config.memSize → w.toNat ≤ 0x10FE) : Effect s i (s.setPc w)
  | ret : Effect s .ret (s.advance.pop.setPc s.top)
  | call (nnn) : Effect s (.call nnn) ((s.advance.push s.advance.pc).setPc (addrWord nnn))
  | reg {i x b} (hi : i.mnemonic ∈ regWriters) (hx : x = VF → Instr.namesVF i) :
      Effect s i (s.advance.setReg x b)
  | rnd (x nn b) : Effect s (.rnd x nn) (s.advance.useDraw.setReg x b)
  | regAndFlag {i x b f} (hi : i.mnemonic ∈ flagWriters) (hf : f.toNat ≤ 1) :
      Effect s i (s.advance.setResultThenFlag x b f)
  | shift {i x g f} (hi : i.mnemonic ∈ flagWriters) (hf : f.toNat ≤ 1) :
      Effect s i (s.advance.setShift Config.shiftVfAlias x g f)
  | load (x g) : Effect s (.ldRegs x) (s.advance.setRegsBelow (x.val + 1) g)
  | index {i w} (hi : i.mnemonic ∈ indexWriters) : Effect s i (s.advance.setI w)
  | store {i bs} (hi : i.mnemonic ∈ storeWriters)
      (hspan : s.base + bs.length ≤ Config.memSize) : Effect s i (s.advance.setMem (s.mem.putAll s.base bs))
  | clear : Effect s .cls (s.advance.setFb FrameBuffer.blank)
  | draw (x y z fb hit) : Effect s (.drw x y z) ((s.advance.setFb fb).setReg VF (flagByte hit))
  | delay (x) : Effect s (.ldDtVx x) (s.advance.setDT (s.reg x))
  | sound (x) : Effect s (.ldStVx x) (s.advance.setST (s.reg x))
  | fault {i c op} (h : FaultFits (s.latch c op)) : Effect s i (s.latch c op)

theorem advance_pc_le {s : State} (h : s.pc.toNat + 1 < Config.memSize) : s.advance.pc.toNat ≤ 0x1000 := by
  have hpc : s.pc.toNat + 1 < 4096 := h
  rw [State.advance_pc, BitVec.toNat_add]
  simp only [BitVec.reduceToNat]
  omega

theorem effect_skip (s : State) {i : Instr} (taken : Bool) (hi : i.mnemonic ∉ flagWriters) :
    Effect s i (s.advance.skipIf taken) := by
  rw [State.skipIf_eq]
  refine .jump hi fun hpc => ?_
  have hadv := advance_pc_le hpc
  cases taken
  · exact hadv.trans (by decide)
  · simp only [if_true, BitVec.toNat_add, BitVec.reduceToNat]
    omega

section
variable {s t : State}

theorem effect_of_execRet (h : execRet s = .next t) : Effect s .ret t := by
  unfold execRet at h
  split at h <;> cases h
  · next hsp => exact .fault ⟨rfl, Fin.ext hsp, rfl⟩
  · exact .ret

theorem effect_of_execCall {nnn : Addr12} (h : execCall nnn s = .next t) : Effect s (.call nnn) t := by
  unfold execCall at h
  split at h <;> cases h
  · next hsp => exact .fault ⟨rfl, Fin.ext hsp, nnn, decodeWord_call nnn⟩
  · exact .call nnn

theorem effect_of_execDrw {x y : Reg} {z : Nat} (h : execDrw x y z s = .next t) : Effect s (.drw x y z) t := by
  unfold execDrw at h
  split at h <;> cases h
  · exact .draw x y z _ _
  · exact .fault rfl

/-- SKP and SKNP differ in the flag they wait for and in the opcode a fault records. -/
theorem effect_of_skipOnKey {i : Instr} {x : Reg} {wanted : Bool} {op : Word} (hi : i.mnemonic ∉ flagWriters)
    (hop : decodeWord op = .ok (.skp x) ∨ decodeWord op = .ok (.sknp x))
    (h : skipOnKey x wanted op s = .next t) : Effect s i t := by
  unfold skipOnKey at h
  split at h <;> cases h
  · exact effect_skip s _ hi
  · next hx => exact .fault ⟨rfl, x, hop, Nat.not_le.1 fun hle => hx (Nat.lt_succ_of_le hle)⟩

theorem effect_of_execLdVxK {x : Reg} (h : execLdVxK x s = .next t) : Effect s (.ldVxK x) t := by
  unfold execLdVxK at h
  split at h <;> cases h
  · refine .jump (w := s.advance.pc - 2) (by simp [Instr.mnemonic, flagWriters]) fun hpc => ?_
    rw [State.advance_pc, BitVec.add_sub_cancel]
    exact (Nat.le_of_succ_le hpc.le).trans (by decide)
  · exact .reg (by simp [Instr.mnemonic, regWriters]) id

theorem effect_of_execLdB {x : Reg} (h : execLdB x s = .next t) : Effect s (.ldB x) t := by
  unfold execLdB at h
  split at h <;> cases h
  · next hspan =>
    exact .store (by simp [Instr.mnemonic, storeWriters]) (((spanInMem_iff _ _).1 hspan).resolve_left (by decide))
  · exact .fault rfl

theorem effect_of_execStRegs {x : Reg} (h : execStRegs x s = .next t) : Effect s (.stRegs x) t := by
  unfold execStRegs at h
  split at h <;> cases h
  · next hspan =>
    refine .store (by simp [Instr.mnemonic, storeWriters]) ?_
    rw [State.regsUpTo_length]
    exact ((spanInMem_iff _ _).1 hspan).resolve_left (Nat.succ_ne_zero _)
  · exact .fault rfl

theorem effect_of_execLdRegs {x : Reg} (h : execLdRegs x s = .next t) : Effect s (.ldRegs x) t := by
  unfold execLdRegs at h
  split at h <;> cases h
  · exact .load x _
  · exact .fault rfl

/-- Every instruction that answers a next state has one of the effects. -/
theorem effect_of_exec {i : Instr} (h : exec i s = .next t) : Effect s i t := by
  cases i with
  | ret => exact effect_of_execRet h
  | call nnn => exact effect_of_execCall h
  | drw x y z => exact effect_of_execDrw h
  | skp x => exact effect_of_skipOnKey (by simp [Instr.mnemonic, flagWriters]) (.inl (decodeWord_skp x)) h
  | sknp x => exact effect_of_skipOnKey (by simp [Instr.mnemonic, flagWriters]) (.inr (decodeWord_sknp x)) h
  | ldVxK x => exact effect_of_execLdVxK h
  | ldB x => exact effect_of_execLdB h
  | stRegs x => exact effect_of_execStRegs h
  | ldRegs x => exact effect_of_execLdRegs h
  | nop => cases h; exact .jump (by simp [Instr.mnemonic, flagWriters]) fun hpc => (advance_pc_le hpc).trans (by decide)
  | jp nnn =>
    cases h
    exact .jump (w := addrWord nnn) (by simp [Instr.mnemonic, flagWriters]) fun _ => by rw [addrWord_toNat]; omega
  | jpV0 nnn =>
    cases h
    exact .jump (w := byteWord (s.reg 0) + addrWord nnn) (by simp [Instr.mnemonic, flagWriters])
      fun _ => byteWord_add_addrWord_le _ _
  | seI | sneI | seR | sneR => cases h; exact effect_skip s _ (by simp [Instr.mnemonic, flagWriters])
  | ldI | addI | ldR | or | and | xor | ldVxDt => cases h; exact .reg (by simp [Instr.mnemonic, regWriters]) id
  | rnd x nn => cases h; exact .rnd x nn _
  | addR | sub | subn => cases h; exact .regAndFlag (by simp [Instr.mnemonic, flagWriters]) (flagByte_le_one _)
  | shr => cases h; exact .shift (by simp [Instr.mnemonic, flagWriters]) (lowBitFlag_le_one _)
  | shl => cases h; exact .shift (by simp [Instr.mnemonic, flagWriters]) (highBitFlag_le_one _)
  | ldIdx | addIdx | ldF => cases h; exact .index (by simp [Instr.mnemonic, indexWriters])
  | cls => cases h; exact .clear
  | ldDtVx x => cases h; exact .delay x
  | ldStVx x => cases h; exact .sound x

end

/-! ### The invariant -/

theorem faultFits_of_clear {t : State} (h : t.fault = .clear) : FaultFits t := by
  simp [FaultFits, h, FaultRecord.clear]

theorem State.Inv.fault_clear {s : State} (hs : s.Inv) (hr : s.running = true) : s.fault = .clear := by
  have hfits := hs.faultFits
  rw [State.running_iff] at hr
  simpa only [FaultFits, hr] using hfits

theorem State.Inv.latch {s : State} (hs : s.Inv) {c : FaultCause} {op : Word} (h : FaultFits (s.latch c op)) :
    (s.latch c op).Inv :=
  ⟨hs.memWf, hs.pcBound, hs.stackBound, h⟩

/-- A state without a fault that shares memory and stack with one that meets the invariant meets it too, if its `pc`
is in bounds. -/
theorem State.Inv.of_same_mem_stack {s t : State} (hs : s.Inv) (hr : s.running = true) (hmem : t.mem = s.mem)
    (hstack : t.stack = s.stack) (hfault : t.fault = s.fault) (hpc : t.pc.toNat ≤ 0x10FE) : t.Inv where
  memWf := hmem ▸ hs.memWf
  pcBound := hpc
  stackBound := hstack ▸ hs.stackBound
  faultFits := faultFits_of_clear (hfault.trans (hs.fault_clear hr))

/-- The entry a RET reads is a stack entry. -/
theorem State.Inv.top_le {s : State} (hs : s.Inv) : s.top.toNat ≤ 0x1000 :=
  hs.stackBound ⟨s.sp.val - 1, by omega⟩

/-- A push keeps the bound of the stack entries when the entry pushed meets it. -/
theorem State.Inv.push_stack_le {s : State} (hs : s.Inv) {w : Word} (hw : w.toNat ≤ 0x1000) (j : Fin 16) :
    ((s.stack.setIfInBounds s.sp.val w)[j]).toNat ≤ 0x1000 := by
  rw [Fin.getElem_fin, Vector.getElem_setIfInBounds]
  split
  · exact hw
  · exact hs.stackBound j

/-- Every effect keeps the invariant, from a state in which the fetch found an instruction. -/
theorem Effect.keeps_inv {s t : State} {i : Instr} (e : Effect s i t) (hs : s.Inv) (hr : s.running = true)
    (hpc : s.pc.toNat + 1 < Config.memSize) : t.Inv := by
  have hadv : s.advance.pc.toNat ≤ 0x1000 := advance_pc_le hpc
  have hadv' : s.advance.pc.toNat ≤ 0x10FE := hadv.trans (by decide)
  cases e with
  | jump hi hw => exact hs.of_same_mem_stack hr rfl rfl rfl (hw hpc)
  | ret => exact hs.of_same_mem_stack hr rfl rfl rfl (hs.top_le.trans (by decide))
  | call nnn =>
    refine ⟨hs.memWf, ?_, hs.push_stack_le hadv, faultFits_of_clear (hs.fault_clear hr)⟩
    rw [State.setPc_pc, addrWord_toNat]
    omega
  | store hi hspan =>
    exact ⟨Memory.wf_putAll _ _ _ hs.memWf hspan, hadv', hs.stackBound, faultFits_of_clear (hs.fault_clear hr)⟩
  | shift => exact hs.of_same_mem_stack hr (by simp) (by simp) (by simp) (by simpa using hadv')
  | reg | rnd | regAndFlag | load | index | clear | draw | delay | sound =>
    exact hs.of_same_mem_stack hr rfl rfl rfl hadv'
  | fault h => exact hs.latch h

/-- What the fetch and the dispatch record fits the state. -/
theorem faultFits_of_fetch_faults {s : State} {c : FaultCause} {op : Word} (h : s.fetch = .faults c op) :
    FaultFits (s.latch c op) := by
  obtain ⟨-, ⟨-, rfl, rfl⟩ | ⟨-, rfl, e, he⟩⟩ := (State.fetch_faults_iff s c op).1 h
  · rfl
  · exact ⟨rfl, he.trans (congrArg _ (decodeWord_error he))⟩

/-- Settles O14: of the three ways a step reaches a next state, the quiet one changes nothing, a fault of the fetch
latches a record that fits, and an instruction has one of the effects, each of which keeps the invariant. -/
theorem stepKeepsTheInvariant : Obligations.StepKeepsTheInvariant := by
  intro s t hs h
  obtain ⟨-, rfl⟩ | ⟨c, op, hf, rfl⟩ | ⟨i, hf, hexec⟩ := step_cases h
  · exact hs
  · exact hs.latch (faultFits_of_fetch_faults hf)
  · obtain ⟨hr, w, hw, -⟩ := (State.fetch_instr_iff s i).1 hf
    obtain ⟨hpc, -⟩ := (Memory.fetchWord_eq_some _ _ _).1 hw
    exact (effect_of_exec hexec).keeps_inv hs hr hpc

/-! ### What an instruction writes -/

/-- Settles O16: each effect writes the parts its constructor shows, and the instructions that have it are in the
write columns of those parts. -/
theorem instructionsWriteOnlyWhatTheAccessMatrixNames :
    Obligations.InstructionsWriteOnlyWhatTheAccessMatrixNames := by
  intro i s t h
  cases effect_of_exec h with
  | jump | fault => simp [Part.Same]
  | ret | call | clear | delay | sound | draw | load | rnd => simp [Part.Same, Instr.mnemonic]
  | reg hi =>
    refine ⟨?_, fun _ => (show regWriters ⊆ _ by decide) hi, ?_, ?_, ?_, ?_, ?_, ?_, ?_⟩ <;> simp [Part.Same]
  | regAndFlag hi | shift hi =>
    refine ⟨?_, fun _ => (show flagWriters ⊆ _ by decide) hi, ?_, ?_, ?_, ?_, ?_, ?_, ?_⟩ <;> simp [Part.Same]
  | index hi => exact ⟨by simp [Part.Same], by simp [Part.Same], fun _ => hi, by simp [Part.Same]⟩
  | store hi => exact ⟨fun _ => hi, by simp [Part.Same]⟩

/-- A register that a one-register write changes is the one it names. -/
theorem dest_of_reg_setReg_ne {s : State} {x r : Reg} {b : Byte} (h : (s.setReg x b).reg r ≠ s.reg r) : x = r := by
  by_contra hx
  exact h (by rw [State.reg_setReg, if_neg (Ne.symm hx)])

/-- A block load changes VF only if VF is the last register it reaches. -/
theorem last_of_vf_setRegsBelow_ne {s : State} {x : Reg} {g : Nat → Byte}
    (h : (s.setRegsBelow (x.val + 1) g).reg VF ≠ s.reg VF) : x = VF := by
  by_contra hx
  have hvf : (VF : Reg).val = 15 := rfl
  have hlt : ¬ VF.val < x.val + 1 := fun hle => hx (Fin.ext (by omega))
  exact h (by rw [State.reg_setRegsBelow, if_neg hlt])

section
variable {s t : State} {i : Instr}

/-- If an effect changes VF, VF is its flag or the register it writes. -/
theorem Effect.flag_or_named_of_vf_ne (e : Effect s i t) (hne : t.reg VF ≠ s.reg VF) :
    i.mnemonic ∈ flagWriters ∨ Instr.namesVF i := by
  cases e with
  | jump | ret | call | index | store | clear | delay | sound | fault => exact absurd rfl hne
  | reg hi hx => exact .inr (hx (dest_of_reg_setReg_ne hne))
  | rnd x nn b => exact .inr (dest_of_reg_setReg_ne hne)
  | load x g => exact .inr (last_of_vf_setRegsBelow_ne hne)
  | regAndFlag hi | shift hi => exact .inl hi
  | draw => exact .inl (by simp [Instr.mnemonic, flagWriters])

/-- Under flag_last the six flag writers leave a flag in VF, or fault. -/
theorem Effect.flag_le_one (e : Effect s i t) (ho : Config.shiftVfAlias = .flagLast)
    (hi : i.mnemonic ∈ flagWriters) : (t.reg VF).toNat ≤ 1 ∨ ∃ c op, Latched c op s t := by
  have hdisj : ∀ m ∈ regWriters ++ indexWriters ++ storeWriters, m ∉ flagWriters := by decide
  cases e with
  | jump hni => exact absurd hi hni
  | reg hw | index hw | store hw => exact absurd hi (hdisj _ (by simp [hw]))
  | ret | call | rnd | load | clear | delay | sound => simp [Instr.mnemonic, flagWriters] at hi
  | regAndFlag _ hf => exact .inl (by simpa using hf)
  | shift _ hf => exact .inl (by simpa [State.reg_setShift, ho] using hf)
  | draw x y z fb hit => exact .inl (by simpa using flagByte_le_one hit)
  | fault => exact .inr ⟨_, _, latched_latch s _ _⟩

end

/-- Settles O17, from what each effect does to VF. -/
theorem vfIsAFlagOfExactlySixInstructions : Obligations.VfIsAFlagOfExactlySixInstructions := by
  intro i s t h
  have e := effect_of_exec h
  exact ⟨e.flag_or_named_of_vf_ne, e.flag_le_one⟩

/-! ### The sound timer -/

/-- An outcome with its next state changed. -/
def mapNext (g : State → State) : Host.Outcome State Fault Refusal → Host.Outcome State Fault Refusal
  | .next t => .next (g t)
  | .fault r => .fault r
  | .refused r => .refused r

/-- The fetch does not look at the sound timer. -/
@[simp] theorem State.fetch_setST (s : State) (v : Byte) : (s.setST v).fetch = s.fetch := rfl

theorem State.setShift_setST (s : State) (v : Byte) (o : ShiftVfAlias) (x : Reg) (g : Byte → Byte) (b : Byte) :
    (s.setST v).setShift o x g b = (s.setShift o x g b).setST v := by
  cases o <;> rfl

/-- The meaning of an instruction other than LD_ST_VX carries the sound timer through. -/
theorem exec_setST {i : Instr} (hi : ∀ x, i ≠ .ldStVx x) (s : State) (v : Byte) :
    exec i (s.setST v) = mapNext (·.setST v) (exec i s) := by
  cases i with
  | ldStVx x => exact absurd rfl (hi x)
  | ret | call | drw | ldB | stRegs | ldRegs =>
    simp only [exec, execRet, execCall, execDrw, execLdB, execStRegs, execLdRegs]
    rw [apply_ite (mapNext _)]
    rfl
  | skp | sknp =>
    simp only [exec, execSkp, execSknp, skipOnKey, State.skipIf_eq]
    rw [apply_dite (mapNext _)]
    rfl
  | ldVxK x =>
    simp only [exec, execLdVxK, show (s.setST v).lowestKey = s.lowestKey from rfl]
    split <;> rfl
  | seI | sneI | seR | sneR => simp only [exec, execSeI, execSneI, execSeR, execSneR, State.skipIf_eq]; rfl
  | shr | shl => exact congrArg Host.Outcome.next (State.setShift_setST s.advance v _ _ _ _)
  | nop | cls | jp | jpV0 | ldI | addI | ldR | or | and | xor | addR | sub | subn | ldIdx | rnd | ldVxDt | ldDtVx
  | addIdx | ldF => rfl

/-- LD_ST_VX overwrites the sound timer without a look at it. -/
theorem exec_ldStVx_setST (x : Reg) (s : State) (v : Byte) : exec (.ldStVx x) (s.setST v) = exec (.ldStVx x) s := rfl

/-- A step that does not run LD_ST_VX carries the sound timer through. -/
theorem step_setST {s : State} (hs : ∀ x, s.fetch ≠ .instr (.ldStVx x)) (v : Byte) :
    step (s.setST v) = mapNext (·.setST v) (step s) := by
  unfold step
  rw [State.fetch_setST]
  cases hf : s.fetch with
  | quiescent | faults => rfl
  | instr i => exact exec_setST (fun x hi => hs x (hi ▸ hf)) s v

/-- Settles O19: LD_ST_VX overwrites the sound timer, every other step carries it through. -/
theorem noInstructionReadsTheSoundTimer : Obligations.NoInstructionReadsTheSoundTimer := by
  intro s t v h
  by_cases hst : ∃ x, s.fetch = .instr (.ldStVx x)
  · obtain ⟨x, hx⟩ := hst
    refine ⟨t, ?_, rfl, fun _ => rfl, fun hne => absurd hx (hne x)⟩
    rw [step_of_instr hx, ← exec_ldStVx_setST x s v] at h
    exact (step_of_instr (s := s.setST v) hx).trans h
  · refine ⟨t.setST v, ?_, rfl, fun hx => absurd hx hst, fun _ => rfl⟩
    have hstep := step_setST (fun x hx => hst ⟨x, hx⟩) v
    rw [h] at hstep
    exact hstep

/-! ### The reset state -/

/-- Settles O13: memory lists nothing, `pc` is 0x200, every stack entry 0 and no fault latched. -/
theorem invariantHoldsAtReset : Obligations.InvariantHoldsAtReset where
  memWf := State.reset_mem_wf
  pcBound := by decide
  stackBound := by decide
  faultFits := faultFits_of_clear rfl

/-- Settles O52: memory lists nothing, so every address reads as FONT or as zero; the rest is the definition. -/
theorem machineStartsInTheResetState : Obligations.MachineStartsInTheResetState := by
  refine ⟨rfl, fun a ha => if_pos ha, fun a ha _ => if_neg (Nat.not_lt.2 ha), ?_, rfl, ?_, rfl, ?_, rfl, rfl,
    FrameBuffer.cell_blank, rfl⟩
  · decide
  · decide
  · decide

end Sys2Proof.Machine

end

/-!
## Memory and the fetch

A fetch reads two neighbouring bytes of memory, and a store writes a list of bytes. `Memory.fetchWord_putAll` says what
the first finds after the second; LD [I], Vx, LD B and `load_program` are stores of three different lists.
-/

section

namespace Sys2Proof.Machine

/-! ### The fetch of a word -/

theorem Memory.fetchWord_of_lt (m : Memory) {a : Nat} (h : a + 1 < Config.memSize) :
    m.fetchWord a = some (bytesToWord (m.get a) (m.get (a + 1))) :=
  (Memory.fetchWord_eq_some m a _).2 ⟨h, rfl⟩

theorem Memory.fetchWord_of_le (m : Memory) {a : Nat} (h : Config.memSize ≤ a + 1) : m.fetchWord a = none :=
  if_neg (Nat.not_lt.2 h)

/-- Settles O6: the fetched word is the concatenation of the two bytes, which as a number is big-endian. -/
theorem fetchIsBigEndianAtAnyAlignment : Obligations.FetchIsBigEndianAtAnyAlignment := fun m _ =>
  ⟨fun h => ⟨_, m.fetchWord_of_lt h, toNat_append _ _⟩, m.fetchWord_of_le⟩

/-! ### The fetch of stored bytes -/

theorem Memory.get_putAll_getElem (m : Memory) (a : Nat) (bs : List Byte) {k : Nat} (hk : k < bs.length) :
    (m.putAll a bs).get (a + k) = bs[k] := by
  rw [Memory.get_putAll, if_pos (by omega), Nat.add_sub_cancel_left, List.getD_eq_getElem _ _ hk]

/-- Two neighbours of the bytes stored are the word at the address of the first (20_memory.md R41, R50). -/
theorem Memory.fetchWord_putAll (m : Memory) {a k : Nat} {bs : List Byte} (hk : k + 1 < bs.length)
    (hspan : a + bs.length ≤ Config.memSize) :
    (m.putAll a bs).fetchWord (a + k) = some (bytesToWord bs[k] bs[k + 1]) := by
  rw [Memory.fetchWord_of_lt _ (by omega), Nat.add_assoc, Memory.get_putAll_getElem _ _ _ hk,
    Memory.get_putAll_getElem _ _ _ (Nat.lt_of_succ_lt hk)]

/-! ### What the three stores write -/

theorem State.getElem_regsUpTo (s : State) {x r : Reg} (h : r.val < (s.regsUpTo x).length) :
    (s.regsUpTo x)[r.val] = s.reg r := by
  simp [State.regsUpTo, State.reg_def]

theorem exec_stRegs_of_lt {x : Reg} {s : State} (h : s.I.toNat + x.val < Config.memSize) :
    exec (.stRegs x) s = .next (s.advance.setMem (s.mem.putAll s.I.toNat (s.regsUpTo x))) :=
  if_pos ((spanInMem_iff _ _).2 (.inr h))

theorem exec_ldB_of_lt {x : Reg} {s : State} (h : s.I.toNat + 2 < Config.memSize) :
    exec (.ldB x) s = .next (s.advance.setMem (s.mem.putAll s.I.toNat (bcdDigits (s.reg x)))) :=
  if_pos ((spanInMem_iff _ _).2 (.inr h))

theorem apply_loadProgram_of_le {s : State} {bytes : List Byte} (hf : s.fault.cause = .noFault)
    (hlen : bytes.length ≤ Config.maxProgLen) :
    (Event.loadProgram bytes).apply s = .next (s.setMem (s.mem.putAll Config.progBase bytes)) := by
  simp [Event.apply, State.loadProgram, imageFits, (State.running_iff s).2 hf, hlen]

@[simp] theorem bcdDigits_length (v : Byte) : (bcdDigits v).length = 3 := rfl

/-- The decimal digits of a byte fit in bytes. -/
theorem digits_toNat (v : Byte) :
    (BitVec.ofNat 8 (v.toNat / 100)).toNat = v.toNat / 100 ∧
    (BitVec.ofNat 8 (v.toNat / 10 % 10)).toNat = v.toNat / 10 % 10 ∧
    (BitVec.ofNat 8 (v.toNat % 10)).toNat = v.toNat % 10 := by
  have := v.isLt
  simp only [BitVec.toNat_ofNat]
  omega

/-- Settles O43: the registers stored are a list of bytes, and `r` and `q` are neighbours in it. -/
theorem storedRegistersAreFetchedNext : Obligations.StoredRegistersAreFetchedNext := by
  intro x r q s hspan hq hx
  refine ⟨_, exec_stRegs_of_lt hspan, ?_⟩
  have hlen := s.regsUpTo_length x
  have hk : r.val + 1 < (s.regsUpTo x).length := by omega
  have hfits : s.I.toNat + (s.regsUpTo x).length ≤ Config.memSize := hlen ▸ hspan
  rw [State.setMem_mem, Memory.fetchWord_putAll _ hk hfits, s.getElem_regsUpTo]
  simp only [← hq, s.getElem_regsUpTo]

/-- Settles O56: the digits are a list of three bytes, of which the fetches read the first and the second pair; the
image is the list that `load_program` stores. -/
theorem digitsAndImagesAreFetchedNext : Obligations.DigitsAndImagesAreFetchedNext := by
  constructor
  · intro x s hspan
    have hfetch {k : Nat} (hk : k + 1 < (bcdDigits (s.reg x)).length) := s.mem.fetchWord_putAll hk hspan
    exact ⟨_, _, _, _, exec_ldB_of_lt hspan, hfetch (k := 0) (by simp), hfetch (k := 1) (by simp),
      digits_toNat (s.reg x)⟩
  · intro s bytes k hk hf hlen
    exact ⟨_, apply_loadProgram_of_le hf hlen, s.mem.fetchWord_putAll hk (Nat.add_le_add_left hlen Config.progBase)⟩

end Sys2Proof.Machine

end

/-!
## Encoding: the decoder, the encoder and the opcode table

A word is the concatenation of its fields, so the decoder, which reads the fields, and the encoder, which puts them
together, undo each other. A row of the opcode table fixes the fields under its mask: that is how the rows are disjoint,
and how a word that the decoder refuses misses every row.
-/

section

namespace Sys2Proof.Machine

/-! ### Decoding an encoded instruction -/

theorem decodeWord_encode {i : Instr} (h : i.WellFormed) : decodeWord (encode i) = .ok i := by
  cases i with
  | nop | cls | ret => rfl
  | call nnn => exact decodeWord_call nnn
  | jp | ldIdx | jpV0 => simp [decodeWord, encode, nibble1_formA, fieldNNN_formA]
  | seI | sneI | ldI | addI | rnd => simp [decodeWord, encode, nibble1_formXB, fieldX_formXB, fieldNN_formXB]
  | seR | sneR =>
    simp [decodeWord, decodeIfN4Zero, encode, nibble1_formXY, nibble4_formXY, fieldX_formXY, fieldY_formXY]
  | ldR | or | and | xor | addR | sub | shr | subn | shl =>
    simp [decodeWord, decodeAlu, encode, nibble1_formXY, nibble4_formXY, fieldX_formXY, fieldY_formXY]
  | drw x y z =>
    have hz : z < 16 := of_decide_eq_true h
    simp [decodeWord, encode, fieldZ, nibble1_formXY, nibble4_formXY, fieldX_formXY, fieldY_formXY,
      Nat.mod_eq_of_lt hz]
  | skp x => exact decodeWord_skp x
  | sknp x => exact decodeWord_sknp x
  | ldVxDt | ldVxK | ldDtVx | ldStVx | addIdx | ldF | ldB | stRegs | ldRegs =>
    simp [decodeWord, decodeMisc, encode, nibble1_formXB, fieldX_formXB, fieldNN_formXB]

/-- The byte decoder reads the word of the first two bytes and leaves the others. -/
theorem decode_bytes_of_decodeWord {w : Word} {i : Instr} (h : decodeWord w = .ok i) (rest : List Byte) :
    decode (highByte w :: lowByte w :: rest) = .ok (i, rest) := by
  simp only [decode, bytesToWord_high_low, h]

/-- Settles O1: each field of an encoded word is the operand it was made from, and its two bytes make the word again. -/
theorem decodeOfEncodeIsTheInstruction : Obligations.DecodeOfEncodeIsTheInstruction := fun _ rest h =>
  ⟨decodeWord_encode h, decode_bytes_of_decodeWord (decodeWord_encode h) rest⟩

/-! ### Encoding a decoded word -/

section
variable {w : Word} {i : Instr} {op n : Nibble}

/-! A word is the concatenation of its fields, in each of the formats of 30_encoding.md R62. -/

theorem formA_fields (h : (nibble1 w).toNat = op.toNat) : formA op (fieldNNN w) = w := by
  apply BitVec.eq_of_toNat_eq
  rw [nibble1_toNat] at h
  rw [formA_toNat, fieldNNN_toNat]
  omega

theorem formXB_fields (h : (nibble1 w).toNat = op.toNat) : formXB op (fieldX w) (fieldNN w) = w := by
  apply BitVec.eq_of_toNat_eq
  rw [nibble1_toNat] at h
  rw [formXB_toNat, fieldX_val, fieldNN_toNat]
  omega

theorem formXS_fields {nn : Byte} (h : (nibble1 w).toNat = op.toNat) (hnn : (fieldNN w).toNat = nn.toNat) :
    formXB op (fieldX w) nn = w := by
  rw [← BitVec.eq_of_toNat_eq hnn, formXB_fields h]

theorem formXY_fields (h : (nibble1 w).toNat = op.toNat) (hn : (nibble4 w).toNat = n.toNat) :
    formXY op (fieldX w) (fieldY w) n = w := by
  apply BitVec.eq_of_toNat_eq
  rw [nibble1_toNat] at h
  rw [nibble4_toNat] at hn
  rw [formXY_toNat, fieldX_val, fieldY_val]
  omega

theorem encode_of_decodeSystem (h : decodeSystem w = .ok i) : i.WellFormed ∧ encode i = w := by
  unfold decodeSystem at h
  split_ifs at h <;> cases h <;> exact ⟨rfl, Eq.symm ‹_›⟩

theorem encode_of_decodeIfN4Zero {j : Instr} (hj : j.WellFormed)
    (hw : (nibble4 w).toNat = (0#4).toNat → encode j = w) (h : decodeIfN4Zero w j = .ok i) :
    i.WellFormed ∧ encode i = w := by
  unfold decodeIfN4Zero at h
  split_ifs at h with hn
  cases h
  exact ⟨hj, hw (congrArg BitVec.toNat hn)⟩

theorem encode_of_decodeAlu (h1 : (nibble1 w).toNat = 0x8) (h : decodeAlu w = .ok i) :
    i.WellFormed ∧ encode i = w := by
  unfold decodeAlu at h
  split at h <;> cases h <;> exact ⟨rfl, formXY_fields h1 ‹_›⟩

theorem encode_of_decodeKey (h1 : (nibble1 w).toNat = 0xE) (h : decodeKey w = .ok i) :
    i.WellFormed ∧ encode i = w := by
  unfold decodeKey at h
  split at h <;> cases h <;> exact ⟨rfl, formXS_fields h1 ‹_›⟩

theorem encode_of_decodeMisc (h1 : (nibble1 w).toNat = 0xF) (h : decodeMisc w = .ok i) :
    i.WellFormed ∧ encode i = w := by
  unfold decodeMisc at h
  split at h <;> cases h <;> exact ⟨rfl, formXS_fields h1 ‹_›⟩

/-- By the groups of the opcode map (30_encoding.md R64); its last arm is n1 = F, the one digit left. -/
theorem encode_of_decodeWord (h : decodeWord w = .ok i) : i.WellFormed ∧ encode i = w := by
  unfold decodeWord at h
  split at h
  case h_1 => exact encode_of_decodeSystem h
  case h_6 h1 | h_10 h1 => exact encode_of_decodeIfN4Zero rfl (formXY_fields h1) h
  case h_9 h1 => exact encode_of_decodeAlu h1 h
  case h_14 h1 =>
    cases h
    exact ⟨decide_eq_true (nibble4 w).isLt, formXY_fields h1 (by simp [fieldZ])⟩
  case h_15 h1 => exact encode_of_decodeKey h1 h
  case h_16 =>
    have hlt := (nibble1 w).isLt
    simp only [imp_false] at *
    exact encode_of_decodeMisc (by omega) h
  case h_2 h1 | h_3 h1 | h_11 h1 | h_12 h1 =>
    cases h
    exact ⟨rfl, formA_fields h1⟩
  case h_4 h1 | h_5 h1 | h_7 h1 | h_8 h1 | h_13 h1 =>
    cases h
    exact ⟨rfl, formXB_fields h1⟩

end

/-- Settles O2: the fields the decoder reads, with the ones it tests, are all the bits of the word. -/
theorem encodeOfDecodedWordIsTheWord : Obligations.EncodeOfDecodedWordIsTheWord := fun _ _ =>
  encode_of_decodeWord

/-! ### The words the decoder refuses -/

section
variable {w : Word}

theorem decodeSystem_error_iff :
    decodeSystem w = .error (.illegalOpcode w) ↔ w ≠ 0x0000 ∧ w ≠ 0x00E0 ∧ w ≠ 0x00EE := by
  unfold decodeSystem
  split_ifs <;> simp_all

theorem decodeIfN4Zero_error_iff {i : Instr} :
    decodeIfN4Zero w i = .error (.illegalOpcode w) ↔ w.toNat % 16 ≠ 0 := by
  have hn : nibble4 w = 0 ↔ w.toNat % 16 = 0 := by rw [← nibble4_toNat]; exact BitVec.toNat_inj.symm
  unfold decodeIfN4Zero
  split_ifs with h <;> simpa [← hn] using h

theorem decodeAlu_error_iff :
    decodeAlu w = .error (.illegalOpcode w) ↔ w.toNat % 16 ∈ [0x8, 0x9, 0xA, 0xB, 0xC, 0xD, 0xF] := by
  have hlt := (nibble4 w).isLt
  unfold decodeAlu
  rw [← nibble4_toNat]
  split <;> simp_all
  -- The last arm: the digits below 16 that the others leave over.
  omega

theorem decodeKey_error_iff : decodeKey w = .error (.illegalOpcode w) ↔ w.toNat % 256 ∉ [0x9E, 0xA1] := by
  unfold decodeKey
  rw [← fieldNN_toNat]
  split <;> simp_all

theorem decodeMisc_error_iff :
    decodeMisc w = .error (.illegalOpcode w) ↔
      w.toNat % 256 ∉ [0x07, 0x0A, 0x15, 0x18, 0x1E, 0x29, 0x33, 0x55, 0x65] := by
  unfold decodeMisc
  rw [← fieldNN_toNat]
  split <;> simp_all

end

theorem decodeWord_error_or_ok (w : Word) :
    decodeWord w = .error (.illegalOpcode w) ∨ ∃ i, decodeWord w = .ok i := by
  cases h : decodeWord w with
  | error e => exact .inl (congrArg _ (decodeWord_error h))
  | ok i => exact .inr ⟨i, rfl⟩

/-- Settles O4: the first digit picks the group, and each group's decoder refuses the words R70 lists for it. -/
theorem illegalOpcodesAreTheListedGroups : Obligations.IllegalOpcodesAreTheListedGroups := by
  refine fun w => ⟨?_, decodeWord_error_or_ok w⟩
  have hlt := (nibble1 w).isLt
  unfold decodeWord
  rw [← nibble1_toNat]
  split
  case h_1 h1 => simp [h1, decodeSystem_error_iff]
  case h_6 h1 | h_10 h1 => simp [h1, decodeIfN4Zero_error_iff]
  case h_9 h1 => simp [h1, decodeAlu_error_iff]
  case h_15 h1 => simp [h1, decodeKey_error_iff]
  case h_16 =>
    have h1 : (nibble1 w).toNat = 0xF := by simp only [imp_false] at *; omega
    simp [h1, decodeMisc_error_iff]
  -- The other groups hold no illegal word.
  all_goals simp [*]

/-! ### The rows of the opcode table -/

/-- Two rows that agree where both masks look are one row. -/
theorem row_eq_of_code_and_mask_eq :
    ∀ r ∈ opcodeTable, ∀ q ∈ opcodeTable, q.code &&& r.mask = r.code &&& q.mask → q = r := by decide

theorem row_eq_of_selects {w : Word} {r q : OpcodeRow} (hr : r ∈ opcodeTable) (hq : q ∈ opcodeTable)
    (hwr : w &&& r.mask = r.code) (hwq : w &&& q.mask = q.code) : q = r :=
  row_eq_of_code_and_mask_eq r hr q hq <| by
    rw [← hwr, ← hwq, BitVec.and_assoc, BitVec.and_assoc, BitVec.and_comm q.mask]

open Laws in
/-- The 35 lemmas of Laws/PerInstr.lean as one. -/
theorem encodingFitsItsRow (i : Instr) : EncodingFitsItsRow.Statement i :=
  match i with
  | .nop => EncodingFitsItsRow.nop
  | .cls => EncodingFitsItsRow.cls
  | .ret => EncodingFitsItsRow.ret
  | .jp nnn => EncodingFitsItsRow.jp nnn
  | .call nnn => EncodingFitsItsRow.call nnn
  | .seI x nn => EncodingFitsItsRow.seI x nn
  | .sneI x nn => EncodingFitsItsRow.sneI x nn
  | .seR x y => EncodingFitsItsRow.seR x y
  | .ldI x nn => EncodingFitsItsRow.ldI x nn
  | .addI x nn => EncodingFitsItsRow.addI x nn
  | .ldR x y => EncodingFitsItsRow.ldR x y
  | .or x y => EncodingFitsItsRow.or x y
  | .and x y => EncodingFitsItsRow.and x y
  | .xor x y => EncodingFitsItsRow.xor x y
  | .addR x y => EncodingFitsItsRow.addR x y
  | .sub x y => EncodingFitsItsRow.sub x y
  | .shr x y => EncodingFitsItsRow.shr x y
  | .subn x y => EncodingFitsItsRow.subn x y
  | .shl x y => EncodingFitsItsRow.shl x y
  | .sneR x y => EncodingFitsItsRow.sneR x y
  | .ldIdx nnn => EncodingFitsItsRow.ldIdx nnn
  | .jpV0 nnn => EncodingFitsItsRow.jpV0 nnn
  | .rnd x nn => EncodingFitsItsRow.rnd x nn
  | .drw x y z => EncodingFitsItsRow.drw x y z
  | .skp x => EncodingFitsItsRow.skp x
  | .sknp x => EncodingFitsItsRow.sknp x
  | .ldVxDt x => EncodingFitsItsRow.ldVxDt x
  | .ldVxK x => EncodingFitsItsRow.ldVxK x
  | .ldDtVx x => EncodingFitsItsRow.ldDtVx x
  | .ldStVx x => EncodingFitsItsRow.ldStVx x
  | .addIdx x => EncodingFitsItsRow.addIdx x
  | .ldF x => EncodingFitsItsRow.ldF x
  | .ldB x => EncodingFitsItsRow.ldB x
  | .stRegs x => EncodingFitsItsRow.stRegs x
  | .ldRegs x => EncodingFitsItsRow.ldRegs x

theorem selects_of_decodeWord {w : Word} {i : Instr} (h : decodeWord w = .ok i) :
    ∃ r ∈ opcodeTable, r.mnemonic = i.mnemonic ∧ w &&& r.mask = r.code := by
  obtain ⟨r, hr, hname, hsel⟩ := encodingFitsItsRow i
  rw [(encode_of_decodeWord h).2] at hsel
  exact ⟨r, hr, hname, beq_iff_eq.1 hsel⟩

/-! A row fixes the fields under its mask, and every mask covers the first digit. -/

section
variable {w c : Word}

theorem eq_of_mask (h : w &&& 0xFFFF = c) : w = c := by
  rwa [show (0xFFFF : Word) = BitVec.allOnes 16 from rfl, BitVec.and_allOnes] at h

theorem nibble4_of_mask (h : w &&& 0xF00F = c) : w.toNat % 16 = c.toNat % 16 := by
  have hn : nibble4 w &&& nibble4 0xF00F = nibble4 c := by rw [← h]; exact BitVec.extractLsb'_and.symm
  rw [← nibble4_toNat, ← nibble4_toNat, ← hn, show nibble4 0xF00F = 0xF#4 from rfl, nibble_and_ones]

theorem fieldNN_of_mask (h : w &&& 0xF0FF = c) : w.toNat % 256 = c.toNat % 256 := by
  have hn : fieldNN w &&& fieldNN 0xF0FF = fieldNN c := by rw [← h]; exact BitVec.extractLsb'_and.symm
  rw [← fieldNN_toNat, ← fieldNN_toNat, ← hn, show fieldNN 0xF0FF = BitVec.allOnes 8 from rfl, BitVec.and_allOnes]

theorem nibble1_mask_of_mem : ∀ r ∈ opcodeTable, nibble1 r.mask = 0xF#4 := by decide

theorem nibble1_of_selects {r : OpcodeRow} (hr : r ∈ opcodeTable) (h : w &&& r.mask = r.code) :
    r.code.toNat / 4096 = w.toNat / 4096 := by
  have hn : nibble1 w &&& nibble1 r.mask = nibble1 r.code := by rw [← h]; exact BitVec.extractLsb'_and.symm
  rw [← nibble1_toNat, ← nibble1_toNat, ← hn, nibble1_mask_of_mem r hr, nibble_and_ones]

end

/-! The rows of the groups that hold illegal words (30_encoding.md R64). -/

theorem systemRows : ∀ r ∈ opcodeTable, r.code.toNat / 4096 = 0x0 →
    r.mask = 0xFFFF ∧ (r.code = 0x0000 ∨ r.code = 0x00E0 ∨ r.code = 0x00EE) := by decide

theorem n4ZeroRows : ∀ r ∈ opcodeTable, r.code.toNat / 4096 = 0x5 ∨ r.code.toNat / 4096 = 0x9 →
    r.mask = 0xF00F ∧ r.code.toNat % 16 = 0 := by decide

theorem aluRows : ∀ r ∈ opcodeTable, r.code.toNat / 4096 = 0x8 →
    r.mask = 0xF00F ∧ r.code.toNat % 16 ∉ [0x8, 0x9, 0xA, 0xB, 0xC, 0xD, 0xF] := by decide

theorem keyRows : ∀ r ∈ opcodeTable, r.code.toNat / 4096 = 0xE →
    r.mask = 0xF0FF ∧ r.code.toNat % 256 ∈ [0x9E, 0xA1] := by decide

theorem miscRows : ∀ r ∈ opcodeTable, r.code.toNat / 4096 = 0xF →
    r.mask = 0xF0FF ∧ r.code.toNat % 256 ∈ [0x07, 0x0A, 0x15, 0x18, 0x1E, 0x29, 0x33, 0x55, 0x65] := by decide

/-- A refused word lies in one of the groups of R70; the group's rows ask for another field than the word has. -/
theorem not_selects_of_decodeWord_error {w : Word} (h : decodeWord w = .error (.illegalOpcode w)) {r : OpcodeRow}
    (hr : r ∈ opcodeTable) : w &&& r.mask ≠ r.code := by
  intro hsel
  have h1 := nibble1_of_selects hr hsel
  obtain ⟨hw, h0, hE0, hEE⟩ | ⟨hw, hn⟩ | ⟨hw, hn⟩ | ⟨hw, hn⟩ | ⟨hw, hn⟩ | ⟨hw, hn⟩ :=
    (illegalOpcodesAreTheListedGroups w).1.1 h
  · obtain ⟨hmask, hcode⟩ := systemRows r hr (h1.trans hw)
    obtain h | h | h := eq_of_mask (hmask ▸ hsel) ▸ hcode
    exacts [h0 h, hE0 h, hEE h]
  · obtain ⟨hmask, hcode⟩ := n4ZeroRows r hr (.inl (h1.trans hw))
    exact hn ((nibble4_of_mask (hmask ▸ hsel)).trans hcode)
  · obtain ⟨hmask, hcode⟩ := aluRows r hr (h1.trans hw)
    exact hcode (nibble4_of_mask (hmask ▸ hsel) ▸ hn)
  · obtain ⟨hmask, hcode⟩ := n4ZeroRows r hr (.inr (h1.trans hw))
    exact hn ((nibble4_of_mask (hmask ▸ hsel)).trans hcode)
  · obtain ⟨hmask, hcode⟩ := keyRows r hr (h1.trans hw)
    exact hn (fieldNN_of_mask (hmask ▸ hsel) ▸ hcode)
  · obtain ⟨hmask, hcode⟩ := miscRows r hr (h1.trans hw)
    exact hn (fieldNN_of_mask (hmask ▸ hsel) ▸ hcode)

theorem decodeWord_error_of_no_row {w : Word} (h : ∀ r ∈ opcodeTable, w &&& r.mask ≠ r.code) :
    decodeWord w = .error (.illegalOpcode w) := by
  refine (decodeWord_error_or_ok w).resolve_right fun ⟨i, hi⟩ => ?_
  obtain ⟨r, hr, -, hsel⟩ := selects_of_decodeWord hi
  exact h r hr hsel

/-- Settles O3: a decoded word is an encoding, which fits its row; the rows are disjoint; a refused word misses all. -/
theorem decoderFollowsTheOpcodeTable : Obligations.DecoderFollowsTheOpcodeTable := by
  refine fun w => ⟨fun i hi => ?_, decodeWord_error_of_no_row, fun h _ => not_selects_of_decodeWord_error h⟩
  obtain ⟨r, hr, hname, hsel⟩ := selects_of_decodeWord hi
  exact ⟨r, hr, hname, hsel, fun _ hq => row_eq_of_selects hr hq hsel⟩

/-- Settles O5, by running the decoder on the eight words. -/
theorem writtenOutWordsDecode : Obligations.WrittenOutWordsDecode := by
  unfold Obligations.WrittenOutWordsDecode
  decide

/-! ### The step at a decoded word, at a refused word and past the end of memory -/

/-- Settles O7: the fetch finds the word of the two bytes, and the step is what it finds. -/
theorem stepRunsTheDecodedInstruction : Obligations.StepRunsTheDecodedInstruction := fun s i hf hpc hi =>
  step_of_instr ((s.fetch_instr_iff i).2 ⟨(State.running_iff s).2 hf, _, s.mem.fetchWord_of_lt hpc, hi⟩)

theorem step_latches_of_faults {s : State} {c : FaultCause} {op : Word} (h : s.fetch = .faults c op) :
    ∃ t, step s = .next t ∧ Latched c op s t :=
  ⟨_, step_of_faults h, latched_latch s c op⟩

/-- Settles O8: no word is fetched. -/
theorem fetchPastTheEndLatchesMemOutOfBounds : Obligations.FetchPastTheEndLatchesMemOutOfBounds := fun s hf hpc =>
  step_latches_of_faults <| (s.fetch_faults_iff _ _).2
    ⟨(State.running_iff s).2 hf, .inl ⟨s.mem.fetchWord_of_le (Nat.succ_le_succ hpc), rfl, rfl⟩⟩

/-- Settles O9: the word is fetched, and the decoder refuses a word that matches no row. -/
theorem illegalOpcodeLatchesTheRawOpcode : Obligations.IllegalOpcodeLatchesTheRawOpcode := fun s _ hf hw hrow =>
  step_latches_of_faults <| (s.fetch_faults_iff _ _).2
    ⟨(State.running_iff s).2 hf, .inr ⟨hw, rfl, _, decodeWord_error_of_no_row hrow⟩⟩

end Sys2Proof.Machine

end

/-!
## Control flow: the instructions that write only `pc` and the stack

Each meaning is said once as one update of the state. All but RET and CALL are a `State.setPc`, whatever the advance did
before; SE and SNE with a register are the immediate forms at the byte in that register.
-/

section

namespace Sys2Proof.Machine

/-! ### The words of an instruction -/

theorem encode_eq_ofNat {i : Instr} {n : Nat} (h : (encode i).toNat = n) : encode i = BitVec.ofNat 16 n := by
  rw [← h, BitVec.ofNat_toNat, BitVec.setWidth_eq]

/-- A well-formed instruction has one word, and the statements write that word as a number. -/
theorem encodedAs_ofNat {i : Instr} {n : Nat} (hi : i.WellFormed) (h : (encode i).toNat = n) :
    EncodedAs i (BitVec.ofNat 16 n) := by
  intro v
  rw [← encode_eq_ofNat h]
  exact ⟨fun hv => (encode_of_decodeWord hv).2.symm, fun hv => hv ▸ decodeWord_encode hi⟩

/-! ### Frames -/

theorem UnchangedBut.refl (s : State) : UnchangedBut [] s s := by
  intro p _
  cases p with
  | mem | regs => exact fun _ => rfl
  | stack | draws => exact ⟨rfl, rfl⟩
  | index | pc | keys | fb | dt | st | fault => rfl

section
variable {parts : List Part} {s t u : State}

/-- A further update, from `t` to `u`, that keeps every part but `q` adds `q` to the parts that may change. -/
theorem UnchangedBut.cons {q : Part} (h : UnchangedBut parts s t) (hu : ∀ p, p ≠ q → p.Same s t → p.Same s u) :
    UnchangedBut (q :: parts) s u := fun p hp =>
  hu p (List.ne_of_not_mem_cons hp) (h p (List.not_mem_of_not_mem_cons hp))

theorem UnchangedBut.setPc (h : UnchangedBut parts s t) (w : Word) : UnchangedBut (.pc :: parts) s (t.setPc w) :=
  h.cons fun p hne hsame => by
    cases p with
    | pc => exact absurd rfl hne
    | mem | regs | index | stack | keys | fb | dt | st | fault | draws => exact hsame

/-- The form of a push and of a pop. -/
theorem UnchangedBut.setStack (h : UnchangedBut parts s t) (entries : Vector Word 16) (sp : Fin 17) :
    UnchangedBut (.stack :: parts) s { t with stack := entries, sp := sp } :=
  h.cons fun p hne hsame => by
    cases p with
    | stack => exact absurd rfl hne
    | mem | regs | index | pc | keys | fb | dt | st | fault | draws => exact hsame

end

theorem unchangedBut_setPc (s : State) (w : Word) : UnchangedBut [.pc] s (s.setPc w) := (UnchangedBut.refl s).setPc w

theorem unchangedBut_push (s : State) (w : Word) : UnchangedBut [.stack] s (s.push w) :=
  (UnchangedBut.refl s).setStack _ _

theorem unchangedBut_pop (s : State) : UnchangedBut [.stack] s s.pop := (UnchangedBut.refl s).setStack _ _

/-! ### NOP and the jumps -/

theorem exec_nop (s : State) : exec .nop s = .next (s.setPc (s.pc + 2)) := rfl

theorem exec_jp (nnn : Addr12) (s : State) : exec (.jp nnn) s = .next (s.setPc (addrWord nnn)) := rfl

theorem exec_jpV0 (nnn : Addr12) (s : State) :
    exec (.jpV0 nnn) s = .next (s.setPc (byteWord (s.reg 0) + addrWord nnn)) := rfl

theorem State.setPc_of_eq {s : State} {w : Word} (h : w = s.pc) : s.setPc w = s := by
  subst h
  rfl

/-- The largest byte plus the largest address is below 2^16, so the sum does not wrap. -/
theorem byteWord_add_addrWord_toNat (b : Byte) (nnn : Addr12) :
    (byteWord b + addrWord nnn).toNat = b.toNat + nnn.toNat := by
  have := b.isLt
  have := nnn.isLt
  rw [BitVec.toNat_add, byteWord_toNat, addrWord_toNat]
  omega

/-- Settles O20: NOP is the advance of `pc`. -/
theorem nopOnlyAdvances : Obligations.NopOnlyAdvances :=
  ⟨encodedAs_ofNat rfl rfl, fun s => ⟨_, exec_nop s, rfl, unchangedBut_setPc s _⟩⟩

/-- Settles O22: JP is one write of `pc`, which changes nothing when `pc` holds the address already. -/
theorem jpLoadsThePc : Obligations.JpLoadsThePc := by
  refine fun nnn => ⟨encodedAs_ofNat rfl (formA_toNat _ _),
    fun s => ⟨_, exec_jp nnn s, addrWord_toNat nnn, unchangedBut_setPc s _⟩, fun s hpc => ?_⟩
  have hself : addrWord nnn = s.pc := BitVec.eq_of_toNat_eq ((addrWord_toNat nnn).trans hpc.symm)
  rw [exec_jp, State.setPc_of_eq hself]

/-- Settles O24: JP V0 is one write of `pc`, and its sum does not wrap. -/
theorem jpV0AddsV0 : Obligations.JpV0AddsV0 := fun nnn =>
  ⟨encodedAs_ofNat rfl (formA_toNat _ _), fun s =>
    ⟨_, exec_jpV0 nnn s, byteWord_add_addrWord_toNat _ nnn, unchangedBut_setPc s _⟩⟩

/-! ### The skips -/

/-- A skip goes over one instruction, from its own address (40_control_flow.md R109). -/
theorem State.skipIf_advance (s : State) (taken : Bool) :
    s.advance.skipIf taken = s.setPc (if taken then s.pc + 4 else s.pc + 2) := by
  cases taken with
  | false => rfl
  | true => exact congrArg s.setPc (BitVec.add_assoc s.pc 2 2)

theorem exec_seI (x : Reg) (nn : Byte) (s : State) :
    exec (.seI x nn) s = .next (s.setPc (if (s.reg x).toNat = nn.toNat then s.pc + 4 else s.pc + 2)) := by
  simp only [exec, execSeI, State.skipIf_advance, beq_iff_eq, BitVec.toNat_inj]

theorem exec_sneI (x : Reg) (nn : Byte) (s : State) :
    exec (.sneI x nn) s = .next (s.setPc (if (s.reg x).toNat = nn.toNat then s.pc + 2 else s.pc + 4)) := by
  simp only [exec, execSneI, State.skipIf_advance, bne_iff_ne, ne_eq, ite_not, BitVec.toNat_inj]

theorem exec_seR (x y : Reg) (s : State) : exec (.seR x y) s = exec (.seI x (s.reg y)) s := rfl

theorem exec_sneR (x y : Reg) (s : State) : exec (.sneR x y) s = exec (.sneI x (s.reg y)) s := rfl

/-- Settles O25: each skip is one write of `pc`. -/
theorem immediateSkipsCompareWithTheByte : Obligations.ImmediateSkipsCompareWithTheByte := fun x nn =>
  ⟨encodedAs_ofNat rfl (formXB_toNat _ _ _), encodedAs_ofNat rfl (formXB_toNat _ _ _), fun s =>
    ⟨⟨_, exec_seI x nn s, rfl, unchangedBut_setPc s _⟩, ⟨_, exec_sneI x nn s, rfl, unchangedBut_setPc s _⟩⟩⟩

/-- Settles O26: a skip on two registers is the skip on the byte in the second. -/
theorem registerSkipsCompareTheRegisters : Obligations.RegisterSkipsCompareTheRegisters := fun x y =>
  ⟨encodedAs_ofNat rfl (formXY_toNat _ _ _ _), encodedAs_ofNat rfl (formXY_toNat _ _ _ _), fun s =>
    ⟨⟨_, (exec_seR x y s).trans (exec_seI x _ s), rfl, unchangedBut_setPc s _⟩,
      ⟨_, (exec_sneR x y s).trans (exec_sneI x _ s), rfl, unchangedBut_setPc s _⟩⟩⟩

/-! ### RET and CALL -/

section
variable {s : State}

theorem exec_ret_of_sp_ne_zero (h : s.sp.val ≠ 0) : exec .ret s = .next (s.pop.setPc s.top) := if_neg h

theorem exec_ret_of_sp_eq_zero (h : s.sp.val = 0) : exec .ret s = .next (s.latch .stackUnderflow 0x00EE) := if_pos h

theorem exec_call_of_sp_ne (nnn : Addr12) (h : s.sp.val ≠ 16) :
    exec (.call nnn) s = .next ((s.push (s.pc + 2)).setPc (addrWord nnn)) := if_neg h

theorem exec_call_of_sp_eq (nnn : Addr12) (h : s.sp.val = 16) :
    exec (.call nnn) s = .next (s.latch .stackOverflow (encode (.call nnn))) := if_pos h

theorem State.top_eq {j : Fin 16} (h : s.sp.val = j.val + 1) : s.top = s.stack[j] := by
  simp [State.top, h]

theorem State.pop_sp_val {j : Fin 16} (h : s.sp.val = j.val + 1) : s.pop.sp.val = j.val := by
  have hne : s.sp ≠ 0 := fun h0 => by simp [h0] at h
  rw [State.pop_sp, Fin.val_sub_one_of_ne_zero hne, h, Nat.add_sub_cancel]

theorem State.push_sp_val {j : Fin 16} (w : Word) (h : s.sp.val = j.val) : (s.push w).sp.val = j.val + 1 := by
  have hlt : s.sp < Fin.last 16 := Fin.lt_def.2 (h ▸ j.isLt)
  rw [State.push_sp, Fin.val_add_one_of_lt hlt, h]

end

theorem State.getElem_push_stack (s : State) (w : Word) (k : Fin 16) :
    (s.push w).stack[k] = if s.sp.val = k.val then w else s.stack[k] :=
  Vector.getElem_setIfInBounds ..

/-- Settles O21: with an entry in use RET is a pop and a write of `pc`, else it takes the fault. -/
theorem retPopsThePcOrUnderflows : Obligations.RetPopsThePcOrUnderflows := by
  refine ⟨encodedAs_ofNat rfl rfl, fun s j hsp => ?_, fun s hsp => ?_⟩
  · have hne : s.sp.val ≠ 0 := hsp ▸ Nat.succ_ne_zero _
    exact ⟨_, exec_ret_of_sp_ne_zero hne, State.top_eq hsp, State.pop_sp_val hsp, rfl,
      (unchangedBut_pop s).setPc _, State.Inv.top_le⟩
  · exact ⟨_, exec_ret_of_sp_eq_zero hsp, latched_latch s _ _⟩

/-- Settles O23: below 16 entries CALL is a push and a write of `pc`, at 16 it takes the fault. -/
theorem callPushesAndJumpsOrOverflows : Obligations.CallPushesAndJumpsOrOverflows := by
  intro nnn
  have hword : (encode (.call nnn)).toNat = 0x2000 + nnn.toNat := formA_toNat _ _
  refine ⟨encodedAs_ofNat rfl hword, fun s j hsp => ?_, fun s hsp => ?_⟩
  · have hslot (k : Fin 16) := s.getElem_push_stack (s.pc + 2) k
    refine ⟨_, exec_call_of_sp_ne nnn (hsp ▸ j.isLt.ne), (hslot j).trans (if_pos hsp), fun k hk => ?_,
      State.push_sp_val (s.pc + 2) hsp, addrWord_toNat nnn, (unchangedBut_push s _).setPc _⟩
    exact (hslot k).trans (if_neg fun he => hk (Fin.ext (he.symm.trans hsp)))
  · rw [← encode_eq_ofNat hword]
    exact ⟨_, exec_call_of_sp_eq nnn hsp, latched_latch s _ _⟩

end Sys2Proof.Machine

end

/-!
## Loads, arithmetic, logic, shifts and the random draw

An ALU instruction advances `pc` and writes one register, or one register and then VF. Both effects are proved once for
the write itself (`writesReg_setReg`, `writesRegAndFlag_setShift`), and each instruction adds the arithmetic of its
result and of its flag. RND alone touches the draw fields: every other instruction carries them through
(`exec_withDraws`).
-/

section

namespace Sys2Proof.Machine

/-! ### Frames of the register writes and of the draw fields -/

/-- The state with other draws and another draw index. -/
def State.withDraws (s : State) (ds : List Byte) (n : Nat) : State := { s with draws := ds, drawIdx := n }

section
variable {parts : List Part} {s t u : State}

theorem Part.Same.trans {p : Part} (h : p.Same s t) (h' : p.Same t u) : p.Same s u := by
  cases p with
  | mem | regs => exact fun a => (h' a).trans (h a)
  | stack | draws => exact ⟨h'.1.trans h.1, h'.2.trans h.2⟩
  | index | pc | keys | fb | dt | st | fault => exact Eq.trans h' h

theorem UnchangedBut.trans_cons {q : Part} (h : UnchangedBut parts s t) (h' : UnchangedBut [q] t u) :
    UnchangedBut (q :: parts) s u :=
  h.cons fun p hne hsame => hsame.trans (h' p (by simpa using hne))

theorem UnchangedBut.setReg (h : UnchangedBut parts s t) (x : Reg) (b : Byte) :
    UnchangedBut (.regs :: parts) s (t.setReg x b) :=
  h.cons fun p hne hsame => by
    cases p with
    | regs => exact absurd rfl hne
    | mem | index | pc | stack | keys | fb | dt | st | fault | draws => exact hsame

theorem UnchangedBut.withDraws (h : UnchangedBut parts s t) (ds : List Byte) (n : Nat) :
    UnchangedBut (.draws :: parts) s (t.withDraws ds n) :=
  h.cons fun p hne hsame => by
    cases p with
    | draws => exact absurd rfl hne
    | mem | regs | index | pc | stack | keys | fb | dt | st | fault => exact hsame

end

theorem State.reg_setReg_same (s : State) (x : Reg) (b : Byte) : (s.setReg x b).reg x = b := by
  rw [State.reg_setReg, if_pos rfl]

theorem sameRegsBut_setReg {s t : State} (h : Part.regs.Same s t) (x : Reg) (b : Byte) :
    SameRegsBut [x] s (t.setReg x b) := fun r hr => by
  rw [State.reg_setReg, if_neg (by simpa using hr), h r]

/-! ### The draw of RND -/

section
variable (ds : List Byte) (n : Nat)

theorem State.setShift_withDraws (s : State) (o : ShiftVfAlias) (x : Reg) (g : Byte → Byte) (b : Byte) :
    (s.withDraws ds n).setShift o x g b = (s.setShift o x g b).withDraws ds n := by
  cases o <;> rfl

/-- The meaning of an instruction other than RND carries the draw fields through. -/
theorem exec_withDraws {i : Instr} (hi : ∀ x nn, i ≠ .rnd x nn) (s : State) :
    exec i (s.withDraws ds n) = mapNext (·.withDraws ds n) (exec i s) := by
  cases i with
  | rnd x nn => exact absurd rfl (hi x nn)
  | ret | call | drw | ldB | stRegs | ldRegs =>
    simp only [exec, execRet, execCall, execDrw, execLdB, execStRegs, execLdRegs]
    rw [apply_ite (mapNext _)]
    rfl
  | skp | sknp =>
    simp only [exec, execSkp, execSknp, skipOnKey, State.skipIf_advance]
    rw [apply_dite (mapNext _)]
    rfl
  | ldVxK x =>
    simp only [exec, execLdVxK, show (s.withDraws ds n).lowestKey = s.lowestKey from rfl]
    split <;> rfl
  | seI | sneI | seR | sneR =>
    simp only [exec, execSeI, execSneI, execSeR, execSneR, State.skipIf_advance]
    rfl
  | shr | shl => exact congrArg Host.Outcome.next (State.setShift_withDraws ds n s.advance _ _ _ _)
  | nop | cls | jp | jpV0 | ldI | addI | ldR | or | and | xor | addR | sub | subn | ldIdx | ldVxDt | ldDtVx | ldStVx
  | addIdx | ldF => rfl

/-- A step that does not run RND carries the draw fields through; the fetch does not look at them. -/
theorem step_withDraws {s : State} (hs : ∀ x nn, s.fetch ≠ .instr (.rnd x nn)) :
    step (s.withDraws ds n) = mapNext (·.withDraws ds n) (step s) := by
  unfold step
  rw [show (s.withDraws ds n).fetch = s.fetch from rfl]
  cases hf : s.fetch with
  | quiescent | faults => rfl
  | instr i => exact exec_withDraws ds n (fun x nn hi => hs x nn (hi ▸ hf)) s

end

/-- Settles O18: the fetch and every meaning but that of RND carry the draw fields through. -/
theorem onlyRndReadsTheDraw : Obligations.OnlyRndReadsTheDraw := fun _ _ ds n hs h =>
  (step_withDraws ds n hs).trans (congrArg (mapNext _) h)

theorem exec_rnd (x : Reg) (nn : Byte) (s : State) :
    exec (.rnd x nn) s =
      .next (((s.withDraws s.draws.tail (s.drawIdx + 1)).setPc (s.pc + 2)).setReg x (s.draw &&& nn)) := rfl

/-- The injected byte is the draw, and the draws injected before it stay. -/
theorem stepWith_of_rnd {x : Reg} {nn : Byte} {s : State} (h : s.fetch = .instr (.rnd x nn)) (r : Byte) :
    stepWith r s =
      .next (((s.withDraws s.draws (s.drawIdx + 1)).setPc (s.pc + 2)).setReg x (r &&& nn)) :=
  stepWith_of_step ((step_of_instr (s := s.setDraws (r :: s.draws)) h).trans (exec_rnd x nn _))

theorem reg_setReg_and_toNat (s : State) (x : Reg) (a b : Byte) :
    ((s.setReg x (a &&& b)).reg x).toNat = a.toNat &&& b.toNat := by
  rw [State.reg_setReg_same, BitVec.toNat_and]

/-- Settles O34: both ways to run RND write the draw fields, `pc` and `V[x]`, and differ in the byte drawn. -/
theorem rndMasksTheDraw : Obligations.RndMasksTheDraw := by
  intro x nn
  have hregs (s : State) (ds n b) : SameRegsBut [x] s (((s.withDraws ds n).setPc (s.pc + 2)).setReg x b) :=
    sameRegsBut_setReg (fun _ => rfl) x b
  have hframe (s : State) (ds n b) :
      UnchangedBut [.regs, .pc, .draws] s (((s.withDraws ds n).setPc (s.pc + 2)).setReg x b) :=
    (((UnchangedBut.refl s).withDraws ds n).setPc _).setReg x b
  exact ⟨encodedAs_ofNat rfl (formXB_toNat _ _ _),
    fun s => ⟨_, exec_rnd x nn s, rfl, reg_setReg_and_toNat _ x _ nn, hregs s _ _ _, hframe s _ _ _⟩,
    fun s r h =>
      ⟨_, stepWith_of_rnd h r, rfl, reg_setReg_and_toNat _ x r nn, hregs s _ _ _, hframe s _ _ _, rfl⟩⟩

/-! ### One register -/

theorem writesReg_setReg {s : State} {x : Reg} {b : Byte} {v : Nat} (hv : b.toNat = v) :
    WritesReg x v s (s.advance.setReg x b) := by
  refine ⟨rfl, ?_, sameRegsBut_setReg (fun _ => rfl) x b, (unchangedBut_setPc s _).setReg x b⟩
  rw [State.reg_setReg_same, hv]

/-- Settles O29: each is one register write, and the addition of bytes wraps. -/
theorem immediateLoadAndAdd : Obligations.ImmediateLoadAndAdd := fun _ _ =>
  ⟨encodedAs_ofNat rfl (formXB_toNat _ _ _), encodedAs_ofNat rfl (formXB_toNat _ _ _), fun _ =>
    ⟨⟨_, rfl, writesReg_setReg rfl⟩, ⟨_, rfl, writesReg_setReg (BitVec.toNat_add _ _)⟩⟩⟩

/-- The words of the group n1 = 8, in the order of the opcode table: the fixed digits first. -/
theorem formXY_alu_toNat (x y : Reg) (n : Nibble) :
    (formXY 0x8 x y n).toNat = 0x8000 + n.toNat + x.val * 256 + y.val * 16 := by
  rw [formXY_toNat, show (0x8 : Nibble).toNat = 8 from rfl]
  omega

/-- Settles O30: each is one register write, and the bits of a result are those of the bytes as numbers. -/
theorem registerCopyAndLogic : Obligations.RegisterCopyAndLogic := fun x y =>
  ⟨encodedAs_ofNat rfl (formXY_alu_toNat x y _), encodedAs_ofNat rfl (formXY_alu_toNat x y _),
    encodedAs_ofNat rfl (formXY_alu_toNat x y _), encodedAs_ofNat rfl (formXY_alu_toNat x y _), fun _ =>
    ⟨⟨_, rfl, writesReg_setReg rfl⟩, ⟨_, rfl, writesReg_setReg (BitVec.toNat_or _ _)⟩,
      ⟨_, rfl, writesReg_setReg (BitVec.toNat_and _ _)⟩, ⟨_, rfl, writesReg_setReg (BitVec.toNat_xor _ _)⟩⟩⟩

/-! ### One register and VF -/

section
variable {s : State} {x : Reg} {o : ShiftVfAlias} {g : Byte → Byte} {b c : Byte} {v f f' : Nat}

/-- The two writes of a shift, in either order: `v` is the shifted register, `f` the flag and `f'` the flag shifted. -/
theorem writesRegAndFlag_setShift (hv : (g (s.reg x)).toNat = v) (hf : b.toNat = f) (hf' : (g b).toNat = f') :
    WritesRegAndFlag x v (if x = VF ∧ o = .resultLast then f' else f) s (s.advance.setShift o x g b) := by
  refine ⟨State.setShift_pc .., fun hx => ?_, ?_, fun r hr => ?_,
    (unchangedBut_setPc s _).trans_cons (State.setShift_frame s.advance o x g b)⟩
  · rw [State.reg_setShift, if_neg hx, if_pos rfl, State.reg_advance, hv]
  · rw [State.reg_setShift, if_pos rfl, apply_ite BitVec.toNat, hf, hf']
  · obtain ⟨hrx, hrf⟩ : r ≠ x ∧ r ≠ VF := by simpa using hr
    rw [State.reg_setShift, if_neg hrf, if_neg hrx, State.reg_advance]

/-- A result and then a flag are the writes of a shift under flag_last, whatever the register held. -/
theorem writesRegAndFlag_setResultThenFlag (hc : c.toNat = v) (hf : b.toNat = f) :
    WritesRegAndFlag x v f s (s.advance.setResultThenFlag x c b) := by
  have h := writesRegAndFlag_setShift (s := s) (x := x) (o := .flagLast) (g := fun _ => c) hc hf hc
  rwa [if_neg (by simp)] at h

end

theorem byte_sub_toNat (a b : Byte) : (a - b).toNat = (a.toNat + 256 - b.toNat) % 256 := by
  have := b.isLt
  rw [BitVec.toNat_sub]
  omega

theorem byte_shiftRight_one_toNat (a : Byte) : (a >>> 1).toNat = a.toNat / 2 := by
  rw [BitVec.toNat_ushiftRight, Nat.shiftRight_eq_div_pow, Nat.pow_one]

theorem byte_shiftLeft_one_toNat (a : Byte) : (a <<< 1).toNat = a.toNat * 2 % 256 := by
  rw [BitVec.toNat_shiftLeft, Nat.shiftLeft_eq, Nat.pow_one]

/-- Settles O31: the sum of bytes wraps, and the flag is the carry. -/
theorem addSetsCarry : Obligations.AddSetsCarry := fun x y =>
  ⟨encodedAs_ofNat rfl (formXY_alu_toNat x y _), fun _ =>
    ⟨_, rfl, writesRegAndFlag_setResultThenFlag (BitVec.toNat_add _ _) (carryFlag_toNat _ _)⟩⟩

/-- Settles O32: the difference of bytes wraps, and the flag is the complement of the borrow. -/
theorem subtractionsSetNotBorrow : Obligations.SubtractionsSetNotBorrow := fun x y =>
  ⟨encodedAs_ofNat rfl (formXY_alu_toNat x y _), encodedAs_ofNat rfl (formXY_alu_toNat x y _), fun _ =>
    ⟨⟨_, rfl, writesRegAndFlag_setResultThenFlag (byte_sub_toNat _ _) (notBorrowFlag_toNat _ _)⟩,
      ⟨_, rfl, writesRegAndFlag_setResultThenFlag (byte_sub_toNat _ _) (notBorrowFlag_toNat _ _)⟩⟩⟩

/-! The flag of a shift, shifted once more, is what VF holds with x = F under result_last. -/

theorem lowBitFlag_shiftRight_one_toNat (a : Byte) : (lowBitFlag a >>> 1).toNat = 0 := by
  rw [byte_shiftRight_one_toNat, lowBitFlag_toNat]
  omega

theorem highBitFlag_shiftLeft_one_toNat (a : Byte) : (highBitFlag a <<< 1).toNat = a.toNat / 128 * 2 := by
  have := a.isLt
  rw [byte_shiftLeft_one_toNat, highBitFlag_toNat]
  omega

/-- Settles O33: SHR and SHL are `State.setShift` at the configured order, and its effect holds for either order. -/
theorem shiftsSetTheBitShiftedOut : Obligations.ShiftsSetTheBitShiftedOut := by
  refine fun x y => ⟨encodedAs_ofNat rfl (formXY_alu_toNat x y _), encodedAs_ofNat rfl (formXY_alu_toNat x y _),
    fun s => ?_⟩
  have hshr (o : ShiftVfAlias) := writesRegAndFlag_setShift (s := s) (x := x) (o := o) (g := fun b => b >>> 1)
    (byte_shiftRight_one_toNat _) (lowBitFlag_toNat (s.reg x)) (lowBitFlag_shiftRight_one_toNat _)
  have hshl (o : ShiftVfAlias) := writesRegAndFlag_setShift (s := s) (x := x) (o := o) (g := fun b => b <<< 1)
    (byte_shiftLeft_one_toNat _) (highBitFlag_toNat (s.reg x)) (highBitFlag_shiftLeft_one_toNat _)
  exact ⟨⟨_, rfl, hshr _⟩, ⟨_, rfl, hshl _⟩, rfl, rfl, fun o => ⟨hshr o, hshl o⟩⟩

end Sys2Proof.Machine

end

/-!
## Display: CLS and DRW

The cells DRW toggles are a list, `State.drawCells`. Two facts about that list carry this part: its members are the
cells under the sprite, and no cell is listed twice. So toggling its cells one after the other is an exclusive or with
membership, a second drawing cancels the first, and each cell is seen as it was before the DRW when VF is set.
-/

section

namespace Sys2Proof.Machine

theorem UnchangedBut.setFb {parts : List Part} {s t : State} (h : UnchangedBut parts s t) (f : FrameBuffer) :
    UnchangedBut (.fb :: parts) s (t.setFb f) :=
  h.cons fun p hne hsame => by
    cases p with
    | fb => exact absurd rfl hne
    | mem | regs | index | pc | stack | keys | dt | st | fault | draws => exact hsame

/-! ### CLS -/

theorem exec_cls (s : State) : exec .cls s = .next ((s.setPc (s.pc + 2)).setFb FrameBuffer.blank) := rfl

/-- Settles O35: CLS writes `pc` and the blank framebuffer. -/
theorem clsTurnsEveryCellOff : Obligations.ClsTurnsEveryCellOff :=
  ⟨encodedAs_ofNat rfl rfl, fun s =>
    ⟨_, exec_cls s, FrameBuffer.cell_blank, rfl, (unchangedBut_setPc s _).setFb _⟩⟩

/-! ### The cells under a sprite -/

/-- Wrapped coordinates are those of one cell only. -/
theorem pixelCell_eq_iff {a b c d : Nat} : pixelCell a b = pixelCell c d ↔ a % 64 = c % 64 ∧ b % 32 = d % 32 := by
  simp only [pixelCell, Fin.mk.injEq]
  omega

theorem mem_rowColumns {row : Byte} {c : Nat} : c ∈ rowColumns row ↔ c < 8 ∧ row.getLsbD (7 - c) = true := by
  simp [rowColumns]

theorem mem_spriteRowCells {m : Memory} {base x0 y0 r : Nat} {i : Fin 2048} :
    i ∈ spriteRowCells m base x0 y0 r ↔
      ∃ c, (c < 8 ∧ (m.get (base + r)).getLsbD (7 - c) = true) ∧ pixelCell (x0 + c) (y0 + r) = i := by
  simp only [spriteRowCells, List.mem_map, mem_rowColumns]

theorem State.mem_drawCells {s : State} {x y : Reg} {z : Nat} {i : Fin 2048} :
    i ∈ s.drawCells x y z ↔ UnderSprite s x y z i := by
  simp only [State.drawCells, spriteCells, List.mem_flatMap, List.mem_range, mem_spriteRowCells, UnderSprite]
  constructor
  · rintro ⟨r, hr, c, ⟨hc, hbit⟩, rfl⟩
    exact ⟨r, c, hr, hc, hbit, rfl⟩
  · rintro ⟨r, c, hr, hc, hbit, hi⟩
    exact ⟨r, hr, c, ⟨hc, hbit⟩, Fin.ext hi.symm⟩

/-- The 8 columns of a row are fewer than the 64 of the display. -/
theorem nodup_spriteRowCells (m : Memory) (base x0 y0 r : Nat) : (spriteRowCells m base x0 y0 r).Nodup := by
  refine List.Nodup.map_on (fun c hc d hd h => ?_) (List.nodup_range.filter _)
  have hcol := (pixelCell_eq_iff.1 h).1
  have := (mem_rowColumns.1 hc).1
  have := (mem_rowColumns.1 hd).1
  omega

/-- The rows of a sprite, numbered below 16, are fewer than the 32 of the display. -/
theorem disjoint_spriteRowCells (m : Memory) (base x0 y0 : Nat) {r q : Nat} (hr : r < 16) (hq : q < 16)
    (hne : r ≠ q) : List.Disjoint (spriteRowCells m base x0 y0 r) (spriteRowCells m base x0 y0 q) := by
  intro i hi hi'
  obtain ⟨c, -, rfl⟩ := mem_spriteRowCells.1 hi
  obtain ⟨d, -, h⟩ := mem_spriteRowCells.1 hi'
  have hrow := (pixelCell_eq_iff.1 h).2
  omega

/-- Settles O37: columns within a row, and rows, are too few to wrap onto one another. -/
theorem drwTouchesNoCellTwice : Obligations.DrwTouchesNoCellTwice := by
  intro s x y z hz
  refine List.nodup_flatMap.2 ⟨fun r _ => nodup_spriteRowCells .., List.nodup_range.imp_of_mem fun hr hq hne => ?_⟩
  have hr := List.mem_range.1 hr
  have hq := List.mem_range.1 hq
  exact disjoint_spriteRowCells _ _ _ _ (hr.trans hz) (hq.trans hz) hne

/-! ### Toggling a list of cells -/

/-- A cell that is toggled once is turned over. -/
theorem cell_foldl_toggleCell {cells : List (Fin 2048)} (h : cells.Nodup) (f : FrameBuffer) (hit : Bool)
    (i : Fin 2048) :
    FrameBuffer.cell (cells.foldl toggleCell (f, hit)).1 i = (FrameBuffer.cell f i ^^ decide (i ∈ cells)) := by
  induction cells generalizing f hit with
  | nil => simp
  | cons j js ih =>
    obtain ⟨hj, hjs⟩ := List.nodup_cons.1 h
    rw [List.foldl_cons, toggleCell, ih hjs, FrameBuffer.cell_toggle]
    by_cases hij : i = j
    · subst hij
      simp [hj]
    · simp [hij]

/-- The toggles of other cells before it do not change what a cell holds, so the collisions are with `f`. -/
theorem foldl_toggleCell_snd_iff {cells : List (Fin 2048)} (h : cells.Nodup) (f : FrameBuffer) (hit : Bool) :
    (cells.foldl toggleCell (f, hit)).2 = true ↔ hit = true ∨ ∃ i ∈ cells, FrameBuffer.cell f i = true := by
  induction cells generalizing f hit with
  | nil => simp
  | cons j js ih =>
    obtain ⟨hj, hjs⟩ := List.nodup_cons.1 h
    have hkeep (i) (hi : i ∈ js) : FrameBuffer.cell (FrameBuffer.toggle f j) i = FrameBuffer.cell f i := by
      rw [FrameBuffer.cell_toggle, if_neg (ne_of_mem_of_not_mem hi hj)]
    rw [List.foldl_cons, toggleCell, ih hjs, Bool.or_eq_true, or_assoc, List.exists_mem_cons_iff]
    exact or_congr_right (or_congr_right (exists_congr fun i => and_congr_right fun hi => by rw [hkeep i hi]))

/-! ### DRW -/

theorem flagByte_eq_one_iff {c : Bool} : flagByte c = 1 ↔ c = true := by cases c <;> decide

theorem flagByte_eq_zero_iff {c : Bool} : flagByte c = 0 ↔ c = false := by cases c <;> decide

/-- The state after a DRW that completes (42_display.md R151). -/
def State.drawn (s : State) (x y : Reg) (z : Nat) : State :=
  ((s.setPc (s.pc + 2)).setFb (toggleCells s.fb (s.drawCells x y z)).1).setReg VF
    (flagByte (toggleCells s.fb (s.drawCells x y z)).2)

section
variable {s : State} {x y : Reg} {z : Nat}

theorem exec_drw_of_lt (h : z = 0 ∨ s.I.toNat + z - 1 < 4096) : exec (.drw x y z) s = .next (s.drawn x y z) :=
  if_pos ((spanInMem_iff _ _).2 (h.imp_right fun h => by simp only [State.base, Config.memSize]; omega))

theorem exec_drw_of_le (hz : 1 ≤ z) (h : 4096 ≤ s.I.toNat + z - 1) :
    exec (.drw x y z) s = .next (s.latch .memOutOfBounds (encode (.drw x y z))) :=
  if_neg fun hspan => by
    have := (spanInMem_iff _ _).1 hspan
    simp only [State.base, Config.memSize] at this
    omega

theorem State.drawn_sameRegsBut : SameRegsBut [VF] s (s.drawn x y z) := sameRegsBut_setReg (fun _ => rfl) VF _

theorem State.drawn_frame : UnchangedBut [.regs, .fb, .pc] s (s.drawn x y z) :=
  ((unchangedBut_setPc s _).setFb _).setReg VF _

/-- VF is written last; a DRW that does not name it draws the same cells again. -/
theorem State.drawCells_drawn (hx : x ≠ VF) (hy : y ≠ VF) : (s.drawn x y z).drawCells x y z = s.drawCells x y z := by
  have hregs := s.drawn_sameRegsBut (x := x) (y := y) (z := z)
  rw [State.drawCells, hregs x (by simpa using hx), hregs y (by simpa using hy)]
  rfl

variable (hz : z < 16)
include hz

theorem State.cell_drawn (i : Fin 2048) :
    FrameBuffer.cell (s.drawn x y z).fb i = (FrameBuffer.cell s.fb i ^^ decide (i ∈ s.drawCells x y z)) :=
  cell_foldl_toggleCell (drwTouchesNoCellTwice s x y z hz) s.fb false i

theorem State.cell_drawn_of_under {i : Fin 2048} (h : UnderSprite s x y z i) :
    FrameBuffer.cell (s.drawn x y z).fb i = !FrameBuffer.cell s.fb i := by
  rw [State.cell_drawn hz, decide_eq_true (State.mem_drawCells.2 h), Bool.xor_true]

theorem State.cell_drawn_of_not_under {i : Fin 2048} (h : ¬ UnderSprite s x y z i) :
    FrameBuffer.cell (s.drawn x y z).fb i = FrameBuffer.cell s.fb i := by
  rw [State.cell_drawn hz, decide_eq_false (mt State.mem_drawCells.1 h), Bool.xor_false]

theorem State.toggleCells_drawCells_snd_iff :
    (toggleCells s.fb (s.drawCells x y z)).2 = true ↔ ∃ i, UnderSprite s x y z i ∧ FrameBuffer.cell s.fb i = true := by
  rw [toggleCells, foldl_toggleCell_snd_iff (drwTouchesNoCellTwice s x y z hz)]
  simp [State.mem_drawCells]

theorem State.reg_drawn_VF_eq_one_iff :
    (s.drawn x y z).reg VF = 1 ↔ ∃ i, UnderSprite s x y z i ∧ FrameBuffer.cell s.fb i = true := by
  rw [State.drawn, State.reg_setReg_same, flagByte_eq_one_iff, State.toggleCells_drawCells_snd_iff hz]

theorem State.reg_drawn_VF_eq_zero_iff :
    (s.drawn x y z).reg VF = 0 ↔ ∀ i, UnderSprite s x y z i → FrameBuffer.cell s.fb i = false := by
  rw [State.drawn, State.reg_setReg_same, flagByte_eq_zero_iff, ← Bool.not_eq_true,
    State.toggleCells_drawCells_snd_iff hz]
  simp

theorem encode_drw_toNat : (encode (.drw x y z)).toNat = 0xD000 + x.val * 256 + y.val * 16 + z := by
  have hcount : (BitVec.ofNat 4 z).toNat = z := (BitVec.toNat_ofNat z 4).trans (Nat.mod_eq_of_lt hz)
  rw [encode, formXY_toNat, hcount]
  rfl

end

/-- Settles O36: within memory DRW leaves the drawn state, else it takes the fault. -/
theorem drwXorsTheSpriteOrFaults : Obligations.DrwXorsTheSpriteOrFaults := by
  intro x y z hz
  refine ⟨encodedAs_ofNat (decide_eq_true hz) (encode_drw_toNat hz), fun s hmem => ?_, fun s hz1 hmem => ?_⟩
  · exact ⟨_, exec_drw_of_lt hmem, rfl, fun _ => State.cell_drawn_of_under hz,
      fun _ => State.cell_drawn_of_not_under hz, (State.reg_drawn_VF_eq_one_iff hz).2,
      (State.reg_drawn_VF_eq_zero_iff hz).2, State.drawn_sameRegsBut, State.drawn_frame⟩
  · rw [← encode_eq_ofNat (encode_drw_toNat hz)]
    exact ⟨_, exec_drw_of_le hz1 hmem, latched_latch s _ _⟩

/-- Settles O38: both drawings toggle the same cells, so the second one finds each of them turned over. -/
theorem drawingTwiceRestoresTheFramebuffer : Obligations.DrawingTwiceRestoresTheFramebuffer := by
  intro x y z s hz hmem hx hy
  have hcells : (s.drawn x y z).drawCells x y z = s.drawCells x y z := State.drawCells_drawn hx hy
  have hunder (i) : UnderSprite (s.drawn x y z) x y z i ↔ UnderSprite s x y z i := by
    rw [← State.mem_drawCells, hcells, State.mem_drawCells]
  refine ⟨s.drawn x y z, _, exec_drw_of_lt hmem, exec_drw_of_lt hmem, fun i => ?_, ?_, ?_⟩
  · rw [State.cell_drawn hz, State.cell_drawn hz, hcells, Bool.xor_assoc, Bool.xor_self, Bool.xor_false]
  · rw [State.reg_drawn_VF_eq_one_iff hz]
    refine exists_congr fun i => ?_
    rw [hunder]
    exact and_congr_right fun h => by rw [State.cell_drawn_of_under hz h, Bool.not_eq_true']
  · rw [State.reg_drawn_VF_eq_zero_iff hz]
    refine forall_congr' fun i => ?_
    rw [hunder]
    exact imp_congr_right fun h => by rw [State.cell_drawn_of_under hz h, Bool.not_eq_false']

end Sys2Proof.Machine

end

/-!
## Index and memory: the three writes of `I`, the two stores and the block load

Each meaning is one update of the advanced state: a `State.setI`, a `State.setMem` or a `State.setRegsBelow`. LD B,
LD [I], Vx and LD Vx, [I] ask first whether their last byte exists, and take the fault otherwise. LD B and LD [I], Vx
store a list of bytes at `I`: what such a store writes and leaves is said once, for any list.
-/

section

namespace Sys2Proof.Machine

/-! ### Frames of the three updates -/

section
variable {parts : List Part} {s t : State}

theorem UnchangedBut.setI (h : UnchangedBut parts s t) (w : Word) : UnchangedBut (.index :: parts) s (t.setI w) :=
  h.cons fun p hne hsame => by
    cases p with
    | index => exact absurd rfl hne
    | mem | regs | pc | stack | keys | fb | dt | st | fault | draws => exact hsame

theorem UnchangedBut.setMem (h : UnchangedBut parts s t) (m : Memory) : UnchangedBut (.mem :: parts) s (t.setMem m) :=
  h.cons fun p hne hsame => by
    cases p with
    | mem => exact absurd rfl hne
    | regs | index | pc | stack | keys | fb | dt | st | fault | draws => exact hsame

theorem UnchangedBut.setRegsBelow (h : UnchangedBut parts s t) (n : Nat) (g : Nat → Byte) :
    UnchangedBut (.regs :: parts) s (t.setRegsBelow n g) :=
  h.cons fun p hne hsame => by
    cases p with
    | regs => exact absurd rfl hne
    | mem | index | pc | stack | keys | fb | dt | st | fault | draws => exact hsame

end

/-- The words of the group n1 = F, in the order of the opcode table: the fixed digits first. -/
theorem formXB_misc_toNat (x : Reg) (nn : Byte) : (formXB 0xF x nn).toNat = 0xF000 + nn.toNat + x.val * 256 := by
  rw [formXB_toNat, show (0xF : Nibble).toNat = 15 from rfl]
  omega

/-! ### LD I, ADD I and LD F -/

theorem exec_ldIdx (nnn : Addr12) (s : State) : exec (.ldIdx nnn) s = .next (s.advance.setI (addrWord nnn)) := rfl

theorem exec_addIdx (x : Reg) (s : State) :
    exec (.addIdx x) s = .next (s.advance.setI (s.I + byteWord (s.reg x))) := rfl

theorem exec_ldF (x : Reg) (s : State) : exec (.ldF x) s = .next (s.advance.setI (byteWord (s.reg x) * 5)) := rfl

theorem add_byteWord_toNat (w : Word) (b : Byte) : (w + byteWord b).toNat = (w.toNat + b.toNat) % 65536 := by
  rw [BitVec.toNat_add, byteWord_toNat]

/-- The largest byte times 5 is below 2^16, so the product does not wrap. -/
theorem byteWord_mul_five_toNat (b : Byte) : (byteWord b * 5).toNat = b.toNat * 5 := by
  have := b.isLt
  rw [BitVec.toNat_mul, byteWord_toNat, show (5 : Word).toNat = 5 from rfl]
  omega

theorem unchangedBut_advance_setI (s : State) (w : Word) : UnchangedBut [.index, .pc] s (s.advance.setI w) :=
  (unchangedBut_setPc s _).setI w

/-- Settles O39: each is one write of `I`, and only the sum of ADD I can wrap. -/
theorem indexInstructionsWriteOnlyTheIndex : Obligations.IndexInstructionsWriteOnlyTheIndex := by
  refine ⟨fun nnn => ⟨encodedAs_ofNat rfl (formA_toNat _ _), fun s => ?_⟩, fun x =>
    ⟨encodedAs_ofNat rfl (formXB_misc_toNat x _), encodedAs_ofNat rfl (formXB_misc_toNat x _), fun s => ⟨?_, ?_⟩⟩⟩
  · exact ⟨_, exec_ldIdx nnn s, addrWord_toNat nnn, rfl, unchangedBut_advance_setI s _⟩
  · exact ⟨_, exec_addIdx x s, add_byteWord_toNat _ _, rfl, unchangedBut_advance_setI s _⟩
  · exact ⟨_, exec_ldF x s, byteWord_mul_five_toNat _, rfl, unchangedBut_advance_setI s _⟩

/-! ### The bounds check and its fault -/

/-- Of one byte or more, the last has to exist. -/
theorem spanInMem_succ_iff {base n : Nat} : spanInMem base (n + 1) = true ↔ base + n < Config.memSize :=
  (spanInMem_iff _ _).trans (or_iff_right (Nat.succ_ne_zero n))

theorem not_spanInMem_succ {base n : Nat} (h : Config.memSize ≤ base + n) : ¬ spanInMem base (n + 1) = true :=
  fun hspan => absurd (spanInMem_succ_iff.1 hspan) (Nat.not_lt.2 h)

section
variable {x : Reg} {s : State}

theorem exec_ldB_of_le (h : Config.memSize ≤ s.I.toNat + 2) :
    exec (.ldB x) s = .next (s.latch .memOutOfBounds (encode (.ldB x))) := if_neg (not_spanInMem_succ h)

theorem exec_stRegs_of_le (h : Config.memSize ≤ s.I.toNat + x.val) :
    exec (.stRegs x) s = .next (s.latch .memOutOfBounds (encode (.stRegs x))) := if_neg (not_spanInMem_succ h)

theorem exec_ldRegs_of_le (h : Config.memSize ≤ s.I.toNat + x.val) :
    exec (.ldRegs x) s = .next (s.latch .memOutOfBounds (encode (.ldRegs x))) := if_neg (not_spanInMem_succ h)

theorem exec_ldRegs_of_lt (h : s.I.toNat + x.val < Config.memSize) :
    exec (.ldRegs x) s =
      .next (s.advance.setRegsBelow (x.val + 1) fun k => s.mem.get (s.I.toNat + k)) :=
  if_pos (spanInMem_succ_iff.2 h)

end

/-- The fault of an instruction, with its word written as a number. -/
theorem latched_encode {i : Instr} {n : Nat} (h : (encode i).toNat = n) (c : FaultCause) (s : State) :
    Latched c (BitVec.ofNat 16 n) s (s.latch c (encode i)) :=
  encode_eq_ofNat h ▸ latched_latch s c (encode i)

/-! ### The stores -/

/-- A store of bytes at `a`, after the advance, writes their span, `pc` and nothing else. -/
theorem store_frame (s : State) (a : Nat) (bs : List Byte) :
    SameMemOutside a bs.length s (s.advance.setMem (s.mem.putAll a bs)) ∧
      (s.advance.setMem (s.mem.putAll a bs)).pc = s.pc + 2 ∧
      UnchangedBut [.mem, .pc] s (s.advance.setMem (s.mem.putAll a bs)) :=
  ⟨fun b hb => (Memory.get_putAll _ a b bs).trans (if_neg hb), rfl, (unchangedBut_setPc s _).setMem _⟩

/-- Settles O40: LD B stores the list of the three digits, or takes the fault. -/
theorem bcdStoresThreeDigits : Obligations.BcdStoresThreeDigits := by
  intro x
  have hword : (encode (.ldB x)).toNat = 0xF033 + x.val * 256 := formXB_misc_toNat x _
  refine ⟨encodedAs_ofNat rfl hword, fun s hmem => ?_, fun s hmem => ?_⟩
  · obtain ⟨hhundreds, htens, hunits⟩ := digits_toNat (s.reg x)
    have hbyte {k : Nat} (hk : k < (bcdDigits (s.reg x)).length) :=
      congrArg BitVec.toNat (s.mem.get_putAll_getElem s.I.toNat _ hk)
    exact ⟨_, exec_ldB_of_lt hmem, (hbyte (k := 0) (by simp)).trans hhundreds,
      (hbyte (k := 1) (by simp)).trans htens, (hbyte (k := 2) (by simp)).trans hunits,
      store_frame s _ (bcdDigits (s.reg x))⟩
  · exact ⟨_, exec_ldB_of_le hmem, latched_encode hword _ s⟩

/-- Settles O41: LD [I], Vx stores the list of the registers up to x, or takes the fault. -/
theorem registerBlockStore : Obligations.RegisterBlockStore := by
  intro x
  have hword : (encode (.stRegs x)).toNat = 0xF055 + x.val * 256 := formXB_misc_toNat x _
  refine ⟨encodedAs_ofNat rfl hword, fun s hmem => ?_, fun s hmem => ?_⟩
  · have hlen := s.regsUpTo_length x
    refine ⟨_, exec_stRegs_of_lt hmem, fun r hr => ?_, hlen ▸ store_frame s _ _⟩
    have hin : r.val < (s.regsUpTo x).length := hlen ▸ Nat.lt_succ_of_le hr
    exact (s.mem.get_putAll_getElem _ _ hin).trans (s.getElem_regsUpTo hin)
  · exact ⟨_, exec_stRegs_of_le hmem, latched_encode hword _ s⟩

/-! ### The block load -/

/-- Settles O42: LD Vx, [I] writes the registers below x + 1, each from its own byte, or takes the fault. -/
theorem registerBlockLoad : Obligations.RegisterBlockLoad := by
  intro x
  have hword : (encode (.ldRegs x)).toNat = 0xF065 + x.val * 256 := formXB_misc_toNat x _
  refine ⟨encodedAs_ofNat rfl hword, fun s hmem => ?_, fun s hmem => ?_⟩
  · have hreg := s.advance.reg_setRegsBelow (x.val + 1) fun k => s.mem.get (s.I.toNat + k)
    exact ⟨_, exec_ldRegs_of_lt hmem, fun r hr => (hreg r).trans (if_pos (Nat.lt_succ_of_le hr)),
      fun r hr => (hreg r).trans (if_neg (Nat.not_lt.2 hr)), rfl, (unchangedBut_setPc s _).setRegsBelow _ _⟩
  · exact ⟨_, exec_ldRegs_of_le hmem, latched_encode hword _ s⟩

end Sys2Proof.Machine

end

/-!
## Keys and timers: the skips on a key, the wait for a key and the timer registers

SKP and SKNP are one write of `pc` while Vx names a key, and a fault otherwise. LD Vx, K is decided by
`State.lowestKey`, so the two cases of the wait are said once of that search, as facts about the key flags. The events of
the host that meet a waiting core change parts the fetch does not look at.
-/

section

namespace Sys2Proof.Machine

/-! ### Frames of the timer writes -/

section
variable {parts : List Part} {s t : State}

theorem UnchangedBut.setDT (h : UnchangedBut parts s t) (b : Byte) : UnchangedBut (.dt :: parts) s (t.setDT b) :=
  h.cons fun p hne hsame => by
    cases p with
    | dt => exact absurd rfl hne
    | mem | regs | index | pc | stack | keys | fb | st | fault | draws => exact hsame

theorem UnchangedBut.setST (h : UnchangedBut parts s t) (b : Byte) : UnchangedBut (.st :: parts) s (t.setST b) :=
  h.cons fun p hne hsame => by
    cases p with
    | st => exact absurd rfl hne
    | mem | regs | index | pc | stack | keys | fb | dt | fault | draws => exact hsame

end

/-! ### SKP and SKNP -/

/-- The words of the group n1 = E, in the order of the opcode table: the fixed digits first. -/
theorem formXB_key_toNat (x : Reg) (nn : Byte) : (formXB 0xE x nn).toNat = 0xE000 + nn.toNat + x.val * 256 := by
  rw [formXB_toNat, show (0xE : Nibble).toNat = 14 from rfl]
  omega

section
variable {x : Reg} {s : State}

theorem skipOnKey_of_key {k : Fin 16} (h : (s.reg x).toNat = k.val) (wanted : Bool) (op : Word) :
    skipOnKey x wanted op s = .next (s.setPc (if s.keys[k] = wanted then s.pc + 4 else s.pc + 2)) := by
  simp only [skipOnKey, h, k.isLt, dif_pos, State.skipIf_advance, beq_iff_eq, Fin.getElem_fin]

theorem exec_skp_of_key {k : Fin 16} (h : (s.reg x).toNat = k.val) :
    exec (.skp x) s = .next (s.setPc (if s.keys[k] = true then s.pc + 4 else s.pc + 2)) := skipOnKey_of_key h _ _

theorem exec_sknp_of_key {k : Fin 16} (h : (s.reg x).toNat = k.val) :
    exec (.sknp x) s = .next (s.setPc (if s.keys[k] = true then s.pc + 2 else s.pc + 4)) := by
  refine (skipOnKey_of_key h _ _).trans ?_
  cases s.keys[k] <;> rfl

theorem exec_skp_of_gt (h : 15 < (s.reg x).toNat) :
    exec (.skp x) s = .next (s.latch .keyIndexOutOfRange (encode (.skp x))) := dif_neg (Nat.not_lt.2 h)

theorem exec_sknp_of_gt (h : 15 < (s.reg x).toNat) :
    exec (.sknp x) s = .next (s.latch .keyIndexOutOfRange (encode (.sknp x))) := dif_neg (Nat.not_lt.2 h)

end

/-- Settles O44: on a key index each is one write of `pc`, above 15 each takes the fault. -/
theorem keySkipsTestTheKeyOrFault : Obligations.KeySkipsTestTheKeyOrFault := by
  intro x
  have hskp : (encode (.skp x)).toNat = 0xE09E + x.val * 256 := formXB_key_toNat x _
  have hsknp : (encode (.sknp x)).toNat = 0xE0A1 + x.val * 256 := formXB_key_toNat x _
  refine ⟨encodedAs_ofNat rfl hskp, encodedAs_ofNat rfl hsknp, fun s k hk => ⟨?_, ?_⟩, fun s hgt => ⟨?_, ?_⟩⟩
  · exact ⟨_, exec_skp_of_key hk, rfl, unchangedBut_setPc s _⟩
  · exact ⟨_, exec_sknp_of_key hk, rfl, unchangedBut_setPc s _⟩
  · exact ⟨_, exec_skp_of_gt hgt, latched_encode hskp _ s⟩
  · exact ⟨_, exec_sknp_of_gt hgt, latched_encode hsknp _ s⟩

/-! ### The wait for a key -/

section
variable {s : State}

theorem State.lowestKey_eq_none_iff : s.lowestKey = none ↔ ∀ k : Fin 16, s.keys[k] = false := by
  rw [State.lowestKey, List.findIdx?_eq_none_iff]
  simp [Vector.mem_iff_getElem, Fin.forall_iff]

theorem State.lowestKey_eq_some_iff {k : Fin 16} :
    s.lowestKey = some k.val ↔ s.keys[k] = true ∧ ∀ j : Fin 16, j < k → s.keys[j] = false := by
  rw [State.lowestKey, List.findIdx?_eq_some_iff_getElem, exists_prop_of_true (by simp)]
  simp only [Vector.getElem_toList, Bool.not_eq_true, Fin.getElem_fin]
  exact and_congr_right fun _ => ⟨fun h j hj => h j hj, fun h j hj => h ⟨j, Nat.lt_trans hj k.isLt⟩ hj⟩

variable {x : Reg}

/-- The advance is undone. -/
theorem exec_ldVxK_of_none (h : s.lowestKey = none) : exec (.ldVxK x) s = .next s := by
  simp only [exec, execLdVxK, h]
  exact congrArg Host.Outcome.next (State.setPc_of_eq (s := s) (BitVec.add_sub_cancel s.pc 2))

theorem exec_ldVxK_of_some {k : Nat} (h : s.lowestKey = some k) :
    exec (.ldVxK x) s = .next (s.advance.setReg x (BitVec.ofNat 8 k)) := by
  simp only [exec, execLdVxK, h]

end

/-- The number of a key fits a register. -/
theorem ofNat_key_toNat (k : Fin 16) : (BitVec.ofNat 8 k.val).toNat = k.val := by
  rw [BitVec.toNat_ofNat]
  omega

/-- Settles O45: the two cases of the search for the lowest pressed key. -/
theorem keyWaitTakesTheLowestPressedKey : Obligations.KeyWaitTakesTheLowestPressedKey := fun x =>
  ⟨encodedAs_ofNat rfl (formXB_misc_toNat x _),
    fun _ hnone => exec_ldVxK_of_none (State.lowestKey_eq_none_iff.2 hnone),
    fun _ k hk hlow =>
      ⟨_, exec_ldVxK_of_some (State.lowestKey_eq_some_iff.2 ⟨hk, hlow⟩), writesReg_setReg (ofNat_key_toNat k)⟩⟩

/-! ### The host's events at a waiting core -/

theorem State.running_of_fetch_instr {s : State} {i : Instr} (h : s.fetch = .instr i) : s.running = true :=
  ((State.fetch_instr_iff s i).1 h).1

@[simp] theorem State.fetch_setKeyFlag (s : State) (k : Fin 16) (b : Bool) : (s.setKeyFlag k b).fetch = s.fetch := rfl

@[simp] theorem State.fetch_setDT (s : State) (b : Byte) : (s.setDT b).fetch = s.fetch := rfl

section
variable {s : State} (hr : s.running = true)
include hr

theorem apply_setKey_of_running (k : Fin 16) (b : Bool) :
    (Event.setKey k.val b).apply s = .next (s.setKeyFlag k b) := by
  simp only [Event.apply, State.setKey, k.isLt, hr, dif_pos, if_true]

theorem apply_tickTimers_of_running :
    Event.tickTimers.apply s = .next ((s.setDT (countDown s.DT)).setST (countDown s.ST)) := by
  simp only [Event.apply, State.tickTimers, hr, if_true]

end

theorem State.Waiting.tick {s : State} (h : s.Waiting) : ∃ u, Event.tickTimers.apply s = .next u ∧ u.Waiting := by
  obtain ⟨x, hf, hkeys⟩ := h
  exact ⟨_, apply_tickTimers_of_running (State.running_of_fetch_instr hf), x, by simpa using hf, hkeys⟩

/-- The key pressed while no other is down is the lowest one. -/
theorem State.lowestKey_setKeyFlag {s : State} (h : ∀ j : Fin 16, s.keys[j] = false) (k : Fin 16) :
    (s.setKeyFlag k true).lowestKey = some k.val := by
  refine State.lowestKey_eq_some_iff.2 ⟨by simp, fun j hj => ?_⟩
  have hne : k.val ≠ j.val := (Fin.val_ne_of_ne hj.ne).symm
  exact (Vector.getElem_set_ne k.isLt j.isLt hne).trans (h j)

theorem stepWith_of_ldVxK {s : State} {x : Reg} {k : Nat} (h : s.fetch = .instr (.ldVxK x))
    (hk : s.lowestKey = some k) (r : Byte) : stepWith r s = .next (s.advance.setReg x (BitVec.ofNat 8 k)) :=
  stepWith_of_step ((step_of_instr (s := s.setDraws (r :: s.draws)) h).trans (exec_ldVxK_of_some hk))

/-- Settles O46: neither a step nor a tick touches the keys or the instruction at `pc`; a press makes its key the lowest
pressed one, which the next step takes. -/
theorem keyWaitEndsOnlyByTheHost : Obligations.KeyWaitEndsOnlyByTheHost := by
  intro s x k r hf hkeys
  refine ⟨?_, State.Waiting.tick ⟨x, hf, hkeys⟩, ?_⟩
  · rw [step_of_instr hf, exec_ldVxK_of_none (State.lowestKey_eq_none_iff.2 hkeys)]
  · have hstep := stepWith_of_ldVxK ((s.fetch_setKeyFlag k true).trans hf) (State.lowestKey_setKeyFlag hkeys k) r
    have hrun : runEvents [.setKey k.val true, .step r] s =
        .next ((s.setKeyFlag k true).advance.setReg x (BitVec.ofNat 8 k.val)) := by
      rw [runEvents, apply_setKey_of_running (State.running_of_fetch_instr hf)]
      simp only [runEvents, Event.apply, hstep]
    exact ⟨_, hrun, by rw [State.reg_setReg_same, ofNat_key_toNat], rfl⟩

/-! ### The timer registers -/

theorem exec_ldVxDt (x : Reg) (s : State) : exec (.ldVxDt x) s = .next (s.advance.setReg x s.DT) := rfl

theorem exec_ldDtVx (x : Reg) (s : State) : exec (.ldDtVx x) s = .next (s.advance.setDT (s.reg x)) := rfl

theorem exec_ldStVx (x : Reg) (s : State) : exec (.ldStVx x) s = .next (s.advance.setST (s.reg x)) := rfl

/-- A tick stops the tone exactly when it takes ST from 1 to 0 (50_interfaces.md R215). -/
theorem State.toneStop_iff {s : State} (hf : s.fault.cause = .noFault) : s.toneStop = true ↔ s.ST.toNat = 1 := by
  rw [State.toneStop, (State.running_iff s).2 hf, Bool.true_and, beq_iff_eq, ← BitVec.toNat_inj]
  rfl

/-- Settles O47: each is one write after the advance, and the tick after LD ST reads the byte it wrote. -/
theorem timerAccess : Obligations.TimerAccess := fun x =>
  ⟨encodedAs_ofNat rfl (formXB_misc_toNat x _), encodedAs_ofNat rfl (formXB_misc_toNat x _),
    encodedAs_ofNat rfl (formXB_misc_toNat x _), fun s =>
      ⟨⟨_, exec_ldVxDt x s, writesReg_setReg rfl⟩,
        ⟨_, exec_ldDtVx x s, rfl, rfl, (unchangedBut_setPc s _).setDT _⟩,
        ⟨_, exec_ldStVx x s, rfl, rfl, (unchangedBut_setPc s _).setST _,
          State.toneStop_iff (s := s.advance.setST (s.reg x))⟩⟩⟩

end Sys2Proof.Machine

end

/-!
## The host's interface: the events, coincident requests and the ports

Each event that the core accepts is one update of the state, and none of these updates touches what the fault record
speaks of: so every event keeps the invariant, and the frames of the events are those of the updates. Coincident requests
and a clock edge are compositions of the events, in one order.
-/

section

namespace Sys2Proof.Machine

/-! ### Every event keeps the invariant -/

section
variable {s : State}

/-- A fault record speaks of `pc`, `sp` and the registers, so memory may change to any canonical one. -/
theorem State.Inv.setMem (hs : s.Inv) {m : Memory} (hm : m.wf = true) : (s.setMem m).Inv :=
  ⟨hm, hs.pcBound, hs.stackBound, hs.faultFits⟩

theorem State.Inv.setKeyFlag (hs : s.Inv) (k : Fin 16) (b : Bool) : (s.setKeyFlag k b).Inv :=
  ⟨hs.memWf, hs.pcBound, hs.stackBound, hs.faultFits⟩

theorem State.Inv.setTimers (hs : s.Inv) (dt st : Byte) : ((s.setDT dt).setST st).Inv :=
  ⟨hs.memWf, hs.pcBound, hs.stackBound, hs.faultFits⟩

theorem State.Inv.setDraws (hs : s.Inv) (ds : List Byte) : (s.setDraws ds).Inv :=
  ⟨hs.memWf, hs.pcBound, hs.stackBound, hs.faultFits⟩

/-- The event differs from the reset state in the counter of free draws alone. -/
theorem State.inv_afterReset (s : State) : s.afterReset.Inv :=
  ⟨invariantHoldsAtReset.memWf, invariantHoldsAtReset.pcBound, invariantHoldsAtReset.stackBound,
    invariantHoldsAtReset.faultFits⟩

theorem imageFits_iff {bytes : List Byte} : imageFits bytes = true ↔ bytes.length ≤ Config.maxProgLen :=
  decide_eq_true_iff

theorem State.Inv.loadProgram (hs : s.Inv) (bytes : List Byte) : (s.loadProgram bytes).Inv := by
  unfold State.loadProgram
  split
  · next h =>
    have hlen : bytes.length ≤ Config.maxProgLen := imageFits_iff.1 (Bool.and_eq_true_iff.1 h).2
    exact hs.setMem (Memory.wf_putAll _ _ _ hs.memWf (Nat.add_le_add_left hlen Config.progBase))
  · exact hs

theorem State.Inv.setKey (hs : s.Inv) (index : Nat) (pressed : Bool) : (s.setKey index pressed).Inv := by
  unfold State.setKey
  split_ifs
  · exact hs.setKeyFlag _ pressed
  · exact hs
  · exact hs

theorem State.Inv.tickTimers (hs : s.Inv) : s.tickTimers.Inv := by
  unfold State.tickTimers
  split
  · exact hs.setTimers _ _
  · exact hs

/-- The draw injected for the step and the draws put back after it are outside the invariant. -/
theorem State.Inv.stepWith (hs : s.Inv) {t : State} {rnd : Byte} (h : stepWith rnd s = .next t) : t.Inv := by
  obtain ⟨u, hu, rfl⟩ := stepWith_next h
  exact (stepKeepsTheInvariant _ u (hs.setDraws _) hu).setDraws _

end

/-- Settles O15: `reset` leads to the reset state, the others are an update outside the invariant, a store of bytes that
all exist, or a step. -/
theorem everyEventKeepsTheInvariant : Obligations.EveryEventKeepsTheInvariant := by
  intro e s t hs h
  cases e with
  | reset => cases h; exact s.inv_afterReset
  | loadProgram bytes => cases h; exact hs.loadProgram bytes
  | setKey index pressed => cases h; exact hs.setKey index pressed
  | tickTimers => cases h; exact hs.tickTimers
  | step rnd => exact hs.stepWith h

/-! ### A step always completes -/

/-- A meaning with a guard answers a next state either way, a fault being one. -/
theorem exists_next_ite (c : Prop) [Decidable c] (a b : State) :
    ∃ t, (if c then .next a else .next b : Host.Outcome State Fault Refusal) = .next t :=
  ⟨if c then a else b, (apply_ite Host.Outcome.next c a b).symm⟩

theorem skipOnKey_next (x : Reg) (wanted : Bool) (op : Word) (s : State) : ∃ t, skipOnKey x wanted op s = .next t := by
  unfold skipOnKey
  split
  · exact ⟨_, rfl⟩
  · exact ⟨_, takeFault_eq _ _ _⟩

theorem execLdVxK_next (x : Reg) (s : State) : ∃ t, execLdVxK x s = .next t := by
  unfold execLdVxK
  split <;> exact ⟨_, rfl⟩

theorem exec_next (i : Instr) (s : State) : ∃ t, exec i s = .next t := by
  cases i with
  | ret | call | drw | ldB | stRegs | ldRegs => exact exists_next_ite _ _ _
  | skp | sknp => exact skipOnKey_next _ _ _ s
  | ldVxK x => exact execLdVxK_next x s
  | nop | cls | jp | seI | sneI | seR | sneR | ldI | addI | ldR | or | and | xor | addR | sub | subn | shr | shl
  | ldIdx | jpV0 | rnd | ldVxDt | ldDtVx | ldStVx | addIdx | ldF => exact ⟨_, rfl⟩

/-- Settles O10: what the fetch finds is nothing to do, a fault to latch, or an instruction, which completes. -/
theorem stepAlwaysAnswersANextState : Obligations.StepAlwaysAnswersANextState := by
  intro s
  cases hf : s.fetch with
  | quiescent => exact ⟨s, by rw [step, hf]⟩
  | faults c op => exact ⟨_, step_of_faults hf⟩
  | instr i => rw [step_of_instr hf]; exact exec_next i s

/-! ### The events one by one -/

theorem countDown_toNat (b : Byte) : (countDown b).toNat = b.toNat - 1 := by
  unfold countDown
  split
  · next h => rw [h]; rfl
  · next h =>
    have hpos : b.toNat ≠ 0 := fun h0 => h (BitVec.eq_of_toNat_eq h0)
    have := b.isLt
    rw [BitVec.toNat_sub, show (1 : Byte).toNat = 1 from rfl]
    omega

/-- Settles O48: an accepted tick is the two timer writes, and counting down is subtraction on naturals. -/
theorem tickDecrementsBothTimers : Obligations.TickDecrementsBothTimers := fun s hf =>
  ⟨_, apply_tickTimers_of_running ((State.running_iff s).2 hf), countDown_toNat s.DT, countDown_toNat s.ST,
    ((UnchangedBut.refl s).setST _).setDT _, State.toneStop_iff hf⟩

/-- A store of bytes at `a`, with no advance, writes their span and nothing else. -/
theorem setMem_putAll_frame (s : State) (a : Nat) (bs : List Byte) :
    SameMemOutside a bs.length s (s.setMem (s.mem.putAll a bs)) ∧
      UnchangedBut [.mem] s (s.setMem (s.mem.putAll a bs)) :=
  ⟨fun b hb => (Memory.get_putAll _ a b bs).trans (if_neg hb), (UnchangedBut.refl s).setMem _⟩

theorem imageFits_eq_false {bytes : List Byte} (h : Config.maxProgLen < bytes.length) : imageFits bytes = false :=
  decide_eq_false (Nat.not_le.2 h)

theorem State.loadProgram_of_ignored {s : State} {bytes : List Byte}
    (h : s.running = false ∨ imageFits bytes = false) : s.loadProgram bytes = s :=
  if_neg (Bool.eq_false_iff.1 (Bool.and_eq_false_iff.2 h))

/-- Settles O49: an accepted image is the list of bytes that the call stores, and one too long is refused. -/
theorem loadProgramCopiesTheImage : Obligations.LoadProgramCopiesTheImage := by
  constructor
  · intro s bytes hf hlen
    have haccepted : (Event.loadProgram bytes).rejected = false := congrArg not (imageFits_iff.2 hlen)
    exact ⟨haccepted, _, apply_loadProgram_of_le hf hlen, fun k hk => s.mem.get_putAll_getElem _ _ hk,
      setMem_putAll_frame s _ bytes⟩
  · intro s bytes hlen
    have hlong := imageFits_eq_false hlen
    exact ⟨congrArg _ (State.loadProgram_of_ignored (.inr hlong)), congrArg not hlong⟩

theorem UnchangedBut.setKeyFlag {parts : List Part} {s t : State} (h : UnchangedBut parts s t) (k : Fin 16) (b : Bool) :
    UnchangedBut (.keys :: parts) s (t.setKeyFlag k b) :=
  h.cons fun p hne hsame => by
    cases p with
    | keys => exact absurd rfl hne
    | mem | regs | index | pc | stack | fb | dt | st | fault | draws => exact hsame

/-- Settles O50: an accepted call is one write of a key flag, and an index above 15 names no key. -/
theorem setKeySetsOneFlag : Obligations.SetKeySetsOneFlag := by
  constructor
  · intro s k pressed hf
    have haccepted : (Event.setKey k.val pressed).rejected = false := decide_eq_false (Nat.not_le.2 k.isLt)
    refine ⟨haccepted, _, apply_setKey_of_running ((State.running_iff s).2 hf) k pressed,
      Vector.getElem_set_self k.isLt, fun j hj => ?_, (UnchangedBut.refl s).setKeyFlag k pressed⟩
    exact Vector.getElem_set_ne k.isLt j.isLt (Fin.val_ne_of_ne hj.symm)
  · intro s index pressed h
    exact ⟨congrArg _ (dif_neg (Nat.not_lt.2 h)), decide_eq_true h⟩

/-- Settles O51: the state after the event is the reset state but for the counter of free draws, which a second reset
keeps. -/
theorem resetRestoresTheResetState : Obligations.ResetRestoresTheResetState := by
  intro s
  obtain ⟨hpc, hfont, hzero, hregs, hI, hstack, hsp, hkeys, hDT, hST, hfb, hfault⟩ := machineStartsInTheResetState
  exact ⟨s.afterReset, rfl, hpc, hfont, hzero, hregs, hI, hstack, hsp, hkeys, hDT, hST, hfb, hfault, rfl⟩

/-! ### Coincident requests -/

theorem runEvents_singleton (e : Event) (s : State) : runEvents [e] s = e.apply s := by
  rw [runEvents]
  cases e.apply s <;> rfl

section
variable (s : State) (wanted : Bool)

theorem runEvents_reset_request :
    runEvents (requestEvents { reset := wanted, load := none, key := none, tick := false, step := none }) s =
      .next (if wanted then s.afterReset else s) := by
  cases wanted <;> rfl

theorem runEvents_key_request (index : Nat) (pressed : Bool) :
    runEvents (requestEvents
      { reset := false, load := none, key := if wanted then some (index, pressed) else none, tick := false,
        step := none }) s = .next (if wanted then s.setKey index pressed else s) := by
  cases wanted <;> rfl

/-- A step that coincides with a tick starts from the state after the tick (50_interfaces.md R212). -/
theorem runEvents_tick_step_requests (tick : Bool) (rnd : Byte) :
    runEvents (requestEvents
      { reset := false, load := none, key := none, tick := tick, step := if wanted then some rnd else none }) s =
      if wanted then stepWith rnd (if tick then s.tickTimers else s)
      else .next (if tick then s.tickTimers else s) := by
  cases wanted with
  | false => cases tick <;> rfl
  | true =>
    cases tick with
    | false => exact runEvents_singleton (.step rnd) s
    | true => exact runEvents_singleton (.step rnd) s.tickTimers

end

/-- The tick does not touch the instruction at `pc`, so the coincident step runs it on the timers counted down. -/
theorem runEvents_tick_step_of_instr {s : State} {i : Instr} (h : s.fetch = .instr i) (rnd : Byte) {u : State}
    (hexec : exec i (((s.setDT (countDown s.DT)).setST (countDown s.ST)).setDraws (rnd :: s.draws)) = .next u) :
    runEvents (requestEvents { reset := false, load := none, key := none, tick := true, step := some rnd }) s =
      .next (u.setDraws s.draws) := by
  have htick : s.tickTimers = (s.setDT (countDown s.DT)).setST (countDown s.ST) :=
    if_pos (State.running_of_fetch_instr h)
  have hstep := runEvents_tick_step_requests s true true rnd
  rw [if_pos rfl, if_pos rfl, htick] at hstep
  exact hstep.trans (stepWith_of_step ((step_of_instr (by simpa using h)).trans hexec))

/-- Settles O53: the two instructions read or overwrite the timer that the tick has counted down. -/
theorem coincidentStepSeesTheTick : Obligations.CoincidentStepSeesTheTick := by
  intro s x r
  refine ⟨fun h => ⟨_, runEvents_tick_step_of_instr h r (exec_ldVxDt x _), ?_⟩,
    fun h => ⟨_, runEvents_tick_step_of_instr h r (exec_ldDtVx x _), rfl⟩⟩
  rw [State.reg_setDraws, State.reg_setReg_same]
  exact countDown_toNat s.DT

/-! ### The ports -/

/-- Settles O55: the state the tick finds is made by the three inputs in their order, and a tick and a step follow. -/
theorem clockEdgePerformsItsRequestsInOrder : Obligations.ClockEdgePerformsItsRequestsInOrder := fun p s =>
  ⟨_, edgeInputs p s, runEvents_reset_request s p.rst, runEvents_key_request _ p.keyWe _ _,
    (runEvents_tick_step_requests _ p.stepReq p.tickReq p.rnd).symm, fun _ => rfl⟩

section
variable {s : State}

/-- A strobe is the store of a list of one byte, so that a burst is the store of a longer list. -/
theorem State.loadByte_of_lt (hr : s.running = true) {off : Addr12} (h : off.toNat < Config.maxProgLen) (b : Byte) :
    s.loadByte off b = s.setMem (s.mem.putAll (Config.progBase + off.toNat) [b]) :=
  if_pos (Bool.and_eq_true_iff.2 ⟨hr, decide_eq_true h⟩)

theorem State.loadByte_of_ignored {off : Addr12} (h : s.running = false ∨ Config.maxProgLen ≤ off.toNat) (b : Byte) :
    s.loadByte off b = s :=
  if_neg (Bool.eq_false_iff.1 (Bool.and_eq_false_iff.2 (h.imp_right fun hge => decide_eq_false (Nat.not_lt.2 hge))))

/-- The offset port is wide enough for every place of an image. -/
theorem State.loadByte_ofNat (hr : s.running = true) {k : Nat} (h : k < Config.maxProgLen) (b : Byte) :
    s.loadByte (BitVec.ofNat 12 k) b = s.setMem (s.mem.putAll (Config.progBase + k) [b]) := by
  have hk : (BitVec.ofNat 12 k).toNat = k :=
    (BitVec.toNat_ofNat k 12).trans (Nat.mod_eq_of_lt (h.trans (by decide)))
  have hbyte := State.loadByte_of_lt hr (hk.trans_lt h) b
  rwa [hk] at hbyte

/-- A burst that begins at offset `k` stores its bytes from there. -/
theorem foldl_loadByte_of_running (hr : s.running = true) {bytes : List Byte} {k : Nat}
    (hlen : k + bytes.length ≤ Config.maxProgLen) :
    (bytes.zipIdx k).foldl (fun u c => u.loadByte (BitVec.ofNat 12 c.2) c.1) s =
      s.setMem (s.mem.putAll (Config.progBase + k) bytes) := by
  induction bytes generalizing s k with
  | nil => rfl
  | cons b bytes ih =>
    rw [List.length_cons] at hlen
    rw [List.zipIdx_cons, List.foldl_cons, State.loadByte_ofNat hr (by omega)]
    exact ih (s := s.setMem (s.mem.putAll (Config.progBase + k) [b])) hr (by omega)

end

/-- Settles O54: a strobe that is stored is a store of one byte, so a burst is the store of them all; with a fault
latched both change nothing. -/
theorem loadBurstIsLoadProgram : Obligations.LoadBurstIsLoadProgram := by
  refine ⟨fun s off b hf hoff => ?_, fun s off b h => ?_, fun s bytes hlen => ?_⟩
  · rw [State.loadByte_of_lt ((State.running_iff s).2 hf) hoff]
    exact ⟨s.mem.get_putAll_getElem _ [b] (k := 0) Nat.zero_lt_one, setMem_putAll_frame s _ [b]⟩
  · exact State.loadByte_of_ignored (h.imp_left fun hf => Bool.eq_false_iff.2 (mt (State.running_iff s).1 hf)) b
  · by_cases hr : s.running = true
    · have hload := apply_loadProgram_of_le ((State.running_iff s).1 hr) hlen
      exact (foldl_loadByte_of_running hr ((Nat.zero_add _).trans_le hlen)).trans (Host.Outcome.next.inj hload).symm
    · have hfaulted := Bool.eq_false_iff.2 hr
      rw [State.loadProgram_of_ignored (.inl hfaulted)]
      exact List.foldl_fixed' (fun c => State.loadByte_of_ignored (.inl hfaulted) c.1) _

end Sys2Proof.Machine

end

/-!
## Faults: the core while one is latched, and the table of causes

The table of 60_exceptions.md R241 gives every instruction at most one cause per state, so it is a function,
`State.instrCause`; with what the fetch finds it gives the one cause of a step, `State.stepCause`. A step latches just
that cause, and each row of the table says when `State.stepCause` is its cause.
-/

section

namespace Sys2Proof.Machine

/-! ### While a fault is latched -/

section
variable {s : State} (hr : s.running = false)
include hr

theorem step_of_not_running : step s = .next s := by
  rw [step, (State.fetch_quiescent_iff s).2 hr]

/-- The draw of the event is put in front for the step only. -/
theorem stepWith_of_not_running (rnd : Byte) : stepWith rnd s = .next s :=
  stepWith_of_step (u := s.setDraws (rnd :: s.draws)) (step_of_not_running hr)

theorem State.tickTimers_of_not_running : s.tickTimers = s := if_neg (Bool.eq_false_iff.1 hr)

theorem State.setKey_of_not_running (index : Nat) (pressed : Bool) : s.setKey index pressed = s := by
  unfold State.setKey
  split
  · exact if_neg (Bool.eq_false_iff.1 hr)
  · rfl

theorem State.toneStop_of_not_running : s.toneStop = false := by
  rw [State.toneStop, hr, Bool.false_and]

end

/-- Settles O11: each event but `reset` tests the latch first, and `reset` restores the clear record. -/
theorem faultedCoreIsQuiescent : Obligations.FaultedCoreIsQuiescent := by
  intro s hf
  have hr : s.running = false := Bool.eq_false_iff.2 (mt (State.running_iff s).1 hf)
  exact ⟨step_of_not_running hr, stepWith_of_not_running hr, congrArg _ (State.tickTimers_of_not_running hr),
    State.toneStop_of_not_running hr, fun index pressed => congrArg _ (State.setKey_of_not_running hr index pressed),
    fun _ => congrArg _ (State.loadProgram_of_ignored (.inl hr)), s.afterReset, rfl, rfl⟩

/-! ### The cause an instruction raises -/

/-- The rows of 60_exceptions.md R241 that name an instruction. -/
def State.instrCause (s : State) (i : Instr) : FaultCause :=
  match i with
  | .drw _ _ z => if 1 ≤ z ∧ 4096 ≤ s.I.toNat + z - 1 then .memOutOfBounds else .noFault
  | .ldB _ => if 4096 ≤ s.I.toNat + 2 then .memOutOfBounds else .noFault
  | .stRegs x | .ldRegs x => if 4096 ≤ s.I.toNat + x.val then .memOutOfBounds else .noFault
  | .call _ => if s.sp = 16 then .stackOverflow else .noFault
  | .ret => if s.sp = 0 then .stackUnderflow else .noFault
  | .skp x | .sknp x => if 15 < (s.reg x).toNat then .keyIndexOutOfRange else .noFault
  | .nop | .cls | .jp _ | .seI _ _ | .sneI _ _ | .seR _ _ | .ldI _ _ | .addI _ _ | .ldR _ _ | .or _ _ | .and _ _
  | .xor _ _ | .addR _ _ | .sub _ _ | .shr _ _ | .subn _ _ | .shl _ _ | .sneR _ _ | .ldIdx _ | .jpV0 _ | .rnd _ _
  | .ldVxDt _ | .ldVxK _ | .ldDtVx _ | .ldStVx _ | .addIdx _ | .ldF _ => .noFault

section
variable {i : Instr} {s : State}

/-- The instruction latches `c` with its own word, or, if `c` is no cause, completes and leaves the record alone. -/
def Raises (i : Instr) (s : State) (c : FaultCause) : Prop :=
  (c ≠ .noFault ∧ exec i s = .next (s.latch c (encode i))) ∨
    (c = .noFault ∧ ∃ t, exec i s = .next t ∧ t.fault = s.fault)

theorem raises_ite {p : Prop} [Decidable p] {c : FaultCause} (hc : c ≠ .noFault)
    (hrow : p → exec i s = .next (s.latch c (encode i)))
    (hkeep : ¬ p → ∃ t, exec i s = .next t ∧ t.fault = s.fault) : Raises i s (if p then c else .noFault) := by
  split
  · next h => exact .inl ⟨hc, hrow h⟩
  · next h => exact .inr ⟨rfl, hkeep h⟩

theorem raises_noFault {t : State} (h : exec i s = .next t) (hfault : t.fault = s.fault) : Raises i s .noFault :=
  .inr ⟨rfl, t, h, hfault⟩

/-- A register up to 15 names a key. -/
theorem exists_key_of_not_gt {x : Reg} (h : ¬ 15 < (s.reg x).toNat) : ∃ k : Fin 16, (s.reg x).toNat = k.val :=
  ⟨⟨_, Nat.lt_succ_of_le (Nat.not_lt.1 h)⟩, rfl⟩

/-- Each instruction raises the cause of its row, under the condition of the row. -/
theorem raises_instrCause (i : Instr) (s : State) : Raises i s (s.instrCause i) := by
  cases i with
  | drw x y z =>
    exact raises_ite nofun (fun h => exec_drw_of_le h.1 h.2) fun h => ⟨_, exec_drw_of_lt (by omega), rfl⟩
  | ldB x => exact raises_ite nofun exec_ldB_of_le fun h => ⟨_, exec_ldB_of_lt (Nat.not_le.1 h), rfl⟩
  | stRegs x => exact raises_ite nofun exec_stRegs_of_le fun h => ⟨_, exec_stRegs_of_lt (Nat.not_le.1 h), rfl⟩
  | ldRegs x => exact raises_ite nofun exec_ldRegs_of_le fun h => ⟨_, exec_ldRegs_of_lt (Nat.not_le.1 h), rfl⟩
  | call nnn =>
    exact raises_ite nofun (fun h => exec_call_of_sp_eq nnn (congrArg Fin.val h))
      fun h => ⟨_, exec_call_of_sp_ne nnn (Fin.val_ne_of_ne h), rfl⟩
  | ret =>
    exact raises_ite nofun (fun h => exec_ret_of_sp_eq_zero (congrArg Fin.val h))
      fun h => ⟨_, exec_ret_of_sp_ne_zero (Fin.val_ne_of_ne h), rfl⟩
  | skp x =>
    exact raises_ite nofun exec_skp_of_gt fun h =>
      have ⟨_, hk⟩ := exists_key_of_not_gt h
      ⟨_, exec_skp_of_key hk, rfl⟩
  | sknp x =>
    exact raises_ite nofun exec_sknp_of_gt fun h =>
      have ⟨_, hk⟩ := exists_key_of_not_gt h
      ⟨_, exec_sknp_of_key hk, rfl⟩
  | ldVxK x =>
    cases hkey : s.lowestKey with
    | none => exact raises_noFault (exec_ldVxK_of_none hkey) rfl
    | some k => exact raises_noFault (exec_ldVxK_of_some hkey) rfl
  | seI | sneI | seR | sneR => exact raises_noFault (congrArg Host.Outcome.next (s.skipIf_advance _)) rfl
  | shr | shl => exact raises_noFault rfl (State.setShift_fault ..)
  | nop | cls | jp | ldI | addI | ldR | or | and | xor | addR | sub | subn | ldIdx | jpV0 | rnd | ldVxDt | ldDtVx
  | ldStVx | addIdx | ldF => exact raises_noFault rfl rfl

/-! Each cause, read off the rows. -/

theorem State.instrCause_eq_memOutOfBounds_iff : s.instrCause i = .memOutOfBounds ↔
    (∃ x y z, i = .drw x y z ∧ 1 ≤ z ∧ 4096 ≤ s.I.toNat + z - 1) ∨ (∃ x, i = .ldB x ∧ 4096 ≤ s.I.toNat + 2) ∨
      ∃ x, (i = .stRegs x ∨ i = .ldRegs x) ∧ 4096 ≤ s.I.toNat + x.val := by
  unfold State.instrCause
  split <;> simp [ite_eq_iff]

theorem State.instrCause_eq_stackOverflow_iff : s.instrCause i = .stackOverflow ↔ ∃ nnn, i = .call nnn ∧ s.sp = 16 := by
  unfold State.instrCause
  split <;> simp [ite_eq_iff]

theorem State.instrCause_eq_stackUnderflow_iff : s.instrCause i = .stackUnderflow ↔ i = .ret ∧ s.sp = 0 := by
  unfold State.instrCause
  split <;> simp [ite_eq_iff]

theorem State.instrCause_eq_keyIndexOutOfRange_iff : s.instrCause i = .keyIndexOutOfRange ↔
    ∃ x, (i = .skp x ∨ i = .sknp x) ∧ 15 < (s.reg x).toNat := by
  unfold State.instrCause
  split <;> simp [ite_eq_iff]

theorem State.instrCause_ne_illegalOpcode : s.instrCause i ≠ .illegalOpcode := by
  unfold State.instrCause
  split <;> simp [ite_eq_iff]

end

/-! ### The cause a step raises -/

theorem Memory.fetchWord_eq_none_iff (m : Memory) (a : Nat) : m.fetchWord a = none ↔ Config.memSize ≤ a + 1 := by
  simp [Memory.fetchWord]

/-- The whole table of 60_exceptions.md R241: the causes of the fetch and the dispatch, and those of the instructions. -/
def State.stepCause (s : State) : FaultCause :=
  match s.fetch with
  | .quiescent => .noFault
  | .faults c _ => c
  | .instr i => s.instrCause i

/-- The opcode a fault of the step records: 0 when there is none to fetch (60_exceptions.md R243). -/
def State.stepOpcode (s : State) : Word := (s.mem.fetchWord s.pc.toNat).getD 0

section
variable {s t : State}

theorem State.stepOpcode_of_faults {c : FaultCause} {op : Word} (h : s.fetch = .faults c op) : s.stepOpcode = op := by
  obtain ⟨-, ⟨hw, -, rfl⟩ | ⟨hw, -⟩⟩ := (State.fetch_faults_iff s c op).1 h <;> rw [State.stepOpcode, hw] <;> rfl

theorem State.stepOpcode_of_instr {i : Instr} (h : s.fetch = .instr i) : s.stepOpcode = encode i := by
  obtain ⟨-, w, hw, hi⟩ := (State.fetch_instr_iff s i).1 h
  rw [State.stepOpcode, hw, (encode_of_decodeWord hi).2]
  rfl

theorem State.stepCause_of_faults {c : FaultCause} {op : Word} (h : s.fetch = .faults c op) : s.stepCause = c := by
  rw [State.stepCause, h]

theorem State.stepCause_of_instr {i : Instr} (h : s.fetch = .instr i) : s.stepCause = s.instrCause i := by
  rw [State.stepCause, h]

theorem State.stepCause_eq_iff {c : FaultCause} (hc : c ≠ .noFault) :
    s.stepCause = c ↔ (∃ op, s.fetch = .faults c op) ∨ ∃ i, s.fetch = .instr i ∧ s.instrCause i = c := by
  unfold State.stepCause
  cases s.fetch with
  | quiescent => simpa using hc.symm
  | faults d op => simp
  | instr i => simp

/-- A step latches its cause, or has none and leaves the record alone. -/
theorem step_latches_or_keeps (hr : s.running = true) (h : step s = .next t) :
    (s.stepCause ≠ .noFault ∧ t = s.latch s.stepCause s.stepOpcode) ∨ (s.stepCause = .noFault ∧ t.fault = s.fault) := by
  obtain ⟨hq, -⟩ | ⟨c, op, hf, rfl⟩ | ⟨i, hf, hexec⟩ := step_cases h
  · exact absurd hr (Bool.eq_false_iff.1 hq)
  · rw [State.stepCause_of_faults hf, State.stepOpcode_of_faults hf]
    obtain ⟨-, ⟨-, rfl, -⟩ | ⟨-, rfl, -⟩⟩ := (State.fetch_faults_iff s c op).1 hf <;> exact .inl ⟨nofun, rfl⟩
  · rw [State.stepCause_of_instr hf, State.stepOpcode_of_instr hf]
    obtain ⟨hc, hlatch⟩ | ⟨hc, u, hu, hfault⟩ := raises_instrCause i s
    · cases hexec.symm.trans hlatch
      exact .inl ⟨hc, rfl⟩
    · cases hexec.symm.trans hu
      exact .inr ⟨hc, hfault⟩

theorem cause_eq_stepCause (hf : s.fault.cause = .noFault) (h : step s = .next t) : t.fault.cause = s.stepCause := by
  obtain ⟨-, rfl⟩ | ⟨hc, hkeep⟩ := step_latches_or_keeps ((State.running_iff s).2 hf) h
  · rfl
  · rw [hkeep, hf, hc]

/-! The rows of the table: when a step has each cause. By what the fetch finds, the part of the instructions is the row
of the one instruction fetched. -/

theorem State.stepCause_eq_memOutOfBounds_iff (hr : s.running = true) : s.stepCause = .memOutOfBounds ↔
    4096 ≤ s.pc.toNat + 1 ∨ (∃ x y z, s.fetch = .instr (.drw x y z) ∧ 1 ≤ z ∧ 4096 ≤ s.I.toNat + z - 1) ∨
      (∃ x, s.fetch = .instr (.ldB x) ∧ 4096 ≤ s.I.toNat + 2) ∨
      ∃ x, (s.fetch = .instr (.stRegs x) ∨ s.fetch = .instr (.ldRegs x)) ∧ 4096 ≤ s.I.toNat + x.val := by
  have hfetch : (∃ op, s.fetch = .faults .memOutOfBounds op) ↔ 4096 ≤ s.pc.toNat + 1 := by
    simp [State.fetch_faults_iff, hr, Memory.fetchWord_eq_none_iff, Config.memSize]
  rw [State.stepCause_eq_iff (by decide), hfetch]
  refine or_congr_right ?_
  cases s.fetch <;> simp [State.instrCause_eq_memOutOfBounds_iff]

theorem State.stepCause_eq_illegalOpcode_iff (hr : s.running = true) : s.stepCause = .illegalOpcode ↔
    ∃ w, s.mem.fetchWord s.pc.toNat = some w ∧ ∀ r ∈ opcodeTable, w &&& r.mask ≠ r.code := by
  have hrefused (w : Word) : (∃ e, decodeWord w = .error e) ↔ ∀ r ∈ opcodeTable, w &&& r.mask ≠ r.code :=
    ⟨fun ⟨_, he⟩ _ => not_selects_of_decodeWord_error (he.trans (congrArg _ (decodeWord_error he))),
      fun h => ⟨_, decodeWord_error_of_no_row h⟩⟩
  simp [State.stepCause_eq_iff, State.fetch_faults_iff, State.instrCause_ne_illegalOpcode, hr, hrefused]

/-- The causes that neither the fetch nor the dispatch raises. -/
theorem State.stepCause_eq_iff_of_instr {c : FaultCause} (hc : c ∉ [.noFault, .memOutOfBounds, .illegalOpcode]) :
    s.stepCause = c ↔ ∃ i, s.fetch = .instr i ∧ s.instrCause i = c := by
  simp only [List.mem_cons, List.not_mem_nil, or_false, not_or] at hc
  obtain ⟨hnone, hmem, hillegal⟩ := hc
  rw [State.stepCause_eq_iff hnone]
  exact or_iff_right fun ⟨op, h⟩ => by simp [State.fetch_faults_iff, hmem, hillegal] at h

theorem State.stepCause_eq_stackOverflow_iff :
    s.stepCause = .stackOverflow ↔ ∃ nnn, s.fetch = .instr (.call nnn) ∧ s.sp = 16 := by
  rw [State.stepCause_eq_iff_of_instr (by decide)]
  cases s.fetch <;> simp [State.instrCause_eq_stackOverflow_iff]

theorem State.stepCause_eq_stackUnderflow_iff : s.stepCause = .stackUnderflow ↔ s.fetch = .instr .ret ∧ s.sp = 0 := by
  rw [State.stepCause_eq_iff_of_instr (by decide)]
  cases s.fetch <;> simp [State.instrCause_eq_stackUnderflow_iff]

theorem State.stepCause_eq_keyIndexOutOfRange_iff : s.stepCause = .keyIndexOutOfRange ↔
    ∃ x, (s.fetch = .instr (.skp x) ∨ s.fetch = .instr (.sknp x)) ∧ 15 < (s.reg x).toNat := by
  rw [State.stepCause_eq_iff_of_instr (by decide)]
  cases s.fetch <;> simp [State.instrCause_eq_keyIndexOutOfRange_iff]

end

/-- Settles O12: the cause after the step is `State.stepCause`, of which the rows speak. -/
theorem faultCausesAreThoseOfTheTable : Obligations.FaultCausesAreThoseOfTheTable := by
  refine ⟨fun s t hf h => ?_, rfl, rfl, rfl, rfl, rfl, rfl⟩
  have hr := (State.running_iff s).2 hf
  rw [cause_eq_stepCause hf h]
  refine ⟨State.stepCause_eq_memOutOfBounds_iff hr, State.stepCause_eq_stackOverflow_iff,
    State.stepCause_eq_stackUnderflow_iff, State.stepCause_eq_illegalOpcode_iff hr,
    State.stepCause_eq_keyIndexOutOfRange_iff, ?_⟩
  obtain ⟨hc, rfl⟩ | ⟨hc, hkeep⟩ := step_latches_or_keeps hr h
  · exact ⟨fun _ => rfl, fun hnone => absurd hnone hc⟩
  · exact ⟨fun hne => absurd hc hne, fun _ => hkeep⟩

end Sys2Proof.Machine

end

/-!
## The end of a program: the walk over zeroed memory and the self-jump

Two zero bytes are the word of NOP, so over zeroed memory every step is one advance of `pc`. The walk is said once, with
any number of steps after it: none, for the state it ends in, and one, for the fault of the fetch there.
-/

section

namespace Sys2Proof.Machine

/-! ### Runs of the core -/

theorem run_succ_of_step {M : Host.Core} {s t : M.State} (h : M.step s = .next t) (k : Nat) :
    M.run (k + 1) s = M.run k t := by
  rw [Host.Core.run, h]

/-! ### The walk over zeroed memory -/

/-- The fetch of R283: the word 0x0000 is NOP. -/
theorem step_of_zero_bytes {s : State} (hf : s.fault.cause = .noFault) (hpc : s.pc.toNat + 1 < 4096)
    (hhi : s.mem.get s.pc.toNat = 0) (hlo : s.mem.get (s.pc.toNat + 1) = 0) :
    step s = .next (s.setPc (s.pc + 2)) := by
  have hnop : decodeWord (bytesToWord (s.mem.get s.pc.toNat) (s.mem.get (s.pc.toNat + 1))) = .ok .nop := by
    rw [hhi, hlo]
    rfl
  rw [stepRunsTheDecodedInstruction s .nop hf hpc hnop, exec_nop]

/-- The walk reaches 0x1000, which is where any further steps start. -/
theorem run_core_over_zeroes (k : Nat) : ∀ (n : Nat) (s : State), s.fault.cause = .noFault →
    s.pc.toNat + 2 * n = 4096 → (∀ a, s.pc.toNat ≤ a → a < 4096 → s.mem.get a = 0) →
    Host.Core.run core (k + n) s = Host.Core.run core k (s.setPc 0x1000)
  | 0, s, _, hpc, _ => by
    have hend : (0x1000 : Word) = s.pc := BitVec.eq_of_toNat_eq hpc.symm
    rw [State.setPc_of_eq hend, Nat.add_zero]
  | n + 1, s, hf, hpc, hzero => by
    have hnext : (s.pc + 2).toNat = s.pc.toNat + 2 := by
      rw [BitVec.toNat_add]
      exact Nat.mod_eq_of_lt (by omega : s.pc.toNat + 2 < 2 ^ 16)
    have hstep : step s = .next (s.setPc (s.pc + 2)) :=
      step_of_zero_bytes hf (by omega) (hzero _ (by omega) (by omega)) (hzero _ (by omega) (by omega))
    refine (run_succ_of_step (M := core) hstep (k + n)).trans ?_
    refine run_core_over_zeroes k n (s.setPc (s.pc + 2)) hf ?_ fun a ha => hzero a ?_
    · rw [State.setPc_pc, hnext]
      omega
    · rw [State.setPc_pc, hnext] at ha
      omega

/-- The fetch faults where no word of two bytes is left (30_encoding.md R60). -/
theorem step_of_pc_past_end {s : State} (hf : s.fault.cause = .noFault) (hpc : Config.memSize ≤ s.pc.toNat + 1) :
    step s = .next (s.latch .memOutOfBounds 0x0000) :=
  step_of_faults <| (s.fetch_faults_iff _ _).2
    ⟨(State.running_iff s).2 hf, .inl ⟨s.mem.fetchWord_of_le hpc, rfl, rfl⟩⟩

/-- Settles O27: the walk, with no step and with one step after it. -/
theorem zeroedMemoryIsWalkedToTheEnd : Obligations.ZeroedMemoryIsWalkedToTheEnd := by
  intro n s hf hpc hzero
  have hwalk (k : Nat) := run_core_over_zeroes k n s hf hpc hzero
  have hfault : step (s.setPc 0x1000) = .next ((s.setPc 0x1000).latch .memOutOfBounds 0x0000) :=
    step_of_pc_past_end hf (by decide : 4096 ≤ (0x1000 : Word).toNat + 1)
  constructor
  · rw [← Nat.zero_add n]
    exact hwalk 0
  · rw [Nat.add_comm]
    exact (hwalk 1).trans (run_succ_of_step (M := core) hfault 0)

/-! ### The self-jump -/

/-- Settles O28: the step is the jump, which writes to `pc` what it holds. -/
theorem endedProgramStaysEnded : Obligations.EndedProgramStaysEnded := by
  rintro s ⟨nnn, hfetch, hself⟩
  rw [step_of_instr hfetch, exec_jp, State.setPc_of_eq hself]

end Sys2Proof.Machine

end
